-- ==== Sys2Proof/Word.lean ====
section
/-! DEFINITION. The word types of the block: wire bytes, nibbles, request operands and frames (R9, R11, R80). -/

namespace Sys2Proof

/-- One wire byte, `u8` (R9, R11). -/
abbrev Byte := BitVec 8

/-- One decoded nibble, `u4` (R37). -/
abbrev Nibble := BitVec 4

/-- One operand lane of the request word, `s32` read as two's complement (R80). -/
abbrev Word32 := BitVec 32

/-- The request word of format `REQ`: 104 bits, bit 0 least significant (R80). -/
abbrev ReqWord := BitVec 104

/-- A frame: a finite byte string, index 0 the first byte sent or received (R11, R61). -/
abbrev Frame := List Byte

end Sys2Proof
end

