-- ==== Sys2Proof/Syntax.lean ====
section
/-! DEFINITION. The field kinds of the codec (R84), the values it packs (R81), the operation codes (R80), the request
the host presents at `REQ` (R31, R80, R81), the events the environment presents (R31, R34, R36, R270) and the host
operations themselves, one constructor per row of the opcode
table. -/

namespace Sys2Proof

/-- A field kind of the codec's mini-language (R84).  The lengths of `str` and `skip` are counted in bytes; a length of 0
can be written and is malformed (R86). -/
inductive FieldKind where
  /-- `c`: a literal byte, copied verbatim. -/
  | lit
  /-- `ns`: a byte string of `n` bytes. -/
  | str (n : Nat)
  /-- `B`: a value byte, 0..255, in two wire bytes. -/
  | byte
  /-- `Y`: a nibble value, 0..15, in one wire byte. -/
  | nib
  /-- `nx`: `n` skip/padding bytes, no value. -/
  | skip (n : Nat)
  /-- `C`: the checksum of every byte before it, no value. -/
  | chk
deriving DecidableEq, Repr

/-- A field spec: a finite list of field kinds (R84). -/
abbrev FieldSpec := List FieldKind

/-- A value of `PACK` and `UNPACK`: an integer for the kinds `c`, `B` and `Y`, a byte string for `s` (R81). -/
inductive Value where
  | int (n : Int)
  | bytes (s : Frame)
deriving DecidableEq, Repr

/-- The operation codes of R80, by name.  The register `ctx` holds one of them (R26). -/
inductive Opcode where
  | setspeed | setbrake | setfuel | setpos | clrpos | setlap | ignore | reset | version | request
  | pressPaceCar | pressStart | pressSpeed | pressBrake | pressFuel | pressCode | pack | unpack
deriving DecidableEq, Repr

/-- What the host presents at `REQ`: the 104-bit request word of format `REQ` (R80), and beside it the operand lanes of
format `BULK` (R81).  The operation code in the word says which lanes an operation reads; it ignores the others. -/
structure Request where
  /-- `op` in bits 7..0, `a` in 39..8, `v` in 71..40, `r` in 103..72. -/
  word : ReqWord
  /-- `spec`, read by `PACK` and `UNPACK`. -/
  spec : FieldSpec
  /-- `vals`, read by `PACK`. -/
  vals : List Value
  /-- `buf`, read by `UNPACK`. -/
  buf : Frame
deriving DecidableEq, Repr

/-- An event of the receive transport (R34).  `frame []` is the timeout indication. -/
inductive RxEvent where
  | frame (f : Frame)
  | ioerr
deriving DecidableEq, Repr

/-- An event the environment presents to the block: a request at `REQ` (R31), an event at `RX` (R34), a pulse at `CLOSE`
(R36), or an assertion of block reset (R270). -/
inductive Event where
  | req (r : Request)
  | rx (e : RxEvent)
  | close
  | reset
deriving DecidableEq, Repr

/-- The host operations, one constructor per row of the opcode table (R80).  The operands are the ones the table says
the operation uses; an operand lane it does not use has no place here ("is ignored, whatever its value"). -/
inductive Instr where
  /-- `SETSPEED a, v, r` (R206). -/
  | setspeed (a v r : Word32)
  /-- `SETBRAKE a, v, r` (R207). -/
  | setbrake (a v r : Word32)
  /-- `SETFUEL a, v, r` (R208). -/
  | setfuel (a v r : Word32)
  /-- `SETPOS a, v, r` (R209). -/
  | setpos (a v r : Word32)
  /-- `CLRPOS` (R210). -/
  | clrpos
  /-- `SETLAP v` (R211). -/
  | setlap (v : Word32)
  /-- `IGNORE v` (R212). -/
  | ignore (v : Word32)
  /-- `RESET`, the CU's timer reset (R213). -/
  | reset
  /-- `VERSION` (R214). -/
  | version
  /-- `REQUEST`, the generic poll (R215). -/
  | request
  /-- `PRESS_PACE_CAR` (R216). -/
  | pressPaceCar
  /-- `PRESS_START` (R217). -/
  | pressStart
  /-- `PRESS_SPEED` (R218). -/
  | pressSpeed
  /-- `PRESS_BRAKE` (R219). -/
  | pressBrake
  /-- `PRESS_FUEL` (R220). -/
  | pressFuel
  /-- `PRESS_CODE` (R221). -/
  | pressCode
  /-- `PACK spec, vals` (R222). -/
  | pack (spec : FieldSpec) (vals : List Value)
  /-- `UNPACK spec, buf` (R223). -/
  | unpack (spec : FieldSpec) (buf : Frame)
deriving DecidableEq, Repr

end Sys2Proof
end

