-- ==== Sys2Proof/Config.lean ====
section
/-! DEFINITION. The parameters of the block (R7), the outcomes a transmit transport can give (R33), and the values
the spec leaves free: constants with no body, of which nothing can be proved. -/

namespace Sys2Proof

/-- The answer of the transmit transport to one `TxSend` (R33). -/
inductive TxOutcome where
  /-- `TX_OK`: all of the frame was written. -/
  | ok
  /-- `TX_TIMEOUT`: the transport's timeout elapsed. -/
  | timeout
  /-- `TX_IOERR`: the transport failed, or has been released. -/
  | ioerr
deriving DecidableEq, Repr, Inhabited

/-- An assignment of the four mode-bit names to bit positions that meets D27's constraint: a permutation of 0..3 with
`MODE_BIT_FUEL` and `MODE_BIT_REAL` on bits 1 and 2.  The two fields choose among the four that exist. -/
structure ModeBits where
  /-- True: `MODE_BIT_FUEL = 1` and `MODE_BIT_REAL = 2`.  False: the other way round. -/
  fuelIsBit1 : Bool
  /-- True: `MODE_BIT_PIT = 0` and `MODE_BIT_LAP = 3`.  False: the other way round. -/
  pitIsBit0 : Bool
deriving DecidableEq, Repr, Inhabited

/-- The parameters of R7 whose value the source does not give (rows marked `decision`, but for the mode-bit names, which
no rule of the block reads: see `ModeBits`), and the two clear-tower values, which 93_implementation_defined.md also asks
for.  They are fixed when the block is built (R29) and held in `State.params`. -/
structure Params where
  /-- `NIB_BASE`: the wire byte of nibble value 0. -/
  nibBase : Byte
  /-- `PAD_BYTE`: the filler byte of a skip field. -/
  padByte : Byte
  /-- `M0`: the poll tag and the generic status/timer marker: the first byte of the poll command and of every Status and
  Timer reply. -/
  m0 : Byte
  /-- `M1`: the second byte of the status marker. -/
  m1 : Byte
  /-- `TAG_WORD`: the tag of a word-write command. -/
  tagWord : Byte
  /-- `TAG_IGNORE`: the tag of the ignore-controller command. -/
  tagIgnore : Byte
  /-- `RESET_FRAME`: the CU timer-reset command frame. -/
  resetFrame : Frame
  /-- `VERSION_FRAME`: the version-query command frame. -/
  versionFrame : Frame
  /-- `POLL_FRAME`: the poll command frame, by default the one byte `M0`. -/
  pollFrame : Frame := [m0]
  /-- `TAG_BUTTON`: the first byte of a button frame. -/
  tagButton : Byte
  /-- `BTN_PACE_CAR`. -/
  btnPaceCar : Nat
  /-- `BTN_START`. -/
  btnStart : Nat
  /-- `BTN_SPEED`. -/
  btnSpeed : Nat
  /-- `BTN_BRAKE`. -/
  btnBrake : Nat
  /-- `BTN_FUEL`. -/
  btnFuel : Nat
  /-- `BTN_CODE`. -/
  btnCode : Nat
  /-- `W_SPEED`. -/
  wSpeed : Nat
  /-- `W_BRAKE`. -/
  wBrake : Nat
  /-- `W_FUEL`. -/
  wFuel : Nat
  /-- `W_POS`. -/
  wPos : Nat
  /-- `W_LAPHI`. -/
  wLapHi : Nat
  /-- `W_LAPLO`. -/
  wLapLo : Nat
  /-- `LAP_ADDR`: the address field of both lap word-writes. -/
  lapAddr : Nat
  /-- `CLRPOS_ADDR`: the address field of the clear-position-tower word-write. -/
  clrposAddr : Nat
  /-- `CLRPOS_VALUE`. -/
  clrposValue : Int
  /-- `CLRPOS_REPEAT`. -/
  clrposRepeat : Int
  /-- `TIMER_LEAD`: bytes before the address nibble of a Timer reply. -/
  timerLead : Nat
  /-- `VERSION_LEAD`: bytes before the identifier of a version reply. -/
  versionLead : Nat
  /-- `RX_MAX_LEN`: the longest frame `RX` can deliver; `none` is unbounded. -/
  rxMaxLen : Option Nat
deriving DecidableEq, Repr

/-! ## Rows of R7 that the source fixes -/

/-- `ALPHA_BASE`: the number of symbols of the nibble alphabet and the modulus of the checksum. -/
abbrev alphaBase : Nat := 16

/-- `REPEAT_DEFAULT`: the repeat count an assembler line leaves out (R104). -/
abbrev repeatDefault : Int := 1

/-- `STATUS_EXTRA`: the extra skip bytes of the extended status format. -/
abbrev statusExtra : Nat := 2

/-- `VERSION_LEN`: the length of the version identifier. -/
abbrev versionLen : Nat := 4

/-- `FUEL_SLOTS`. -/
abbrev fuelSlots : Nat := 8

/-- `PIT_SLOTS`. -/
abbrev pitSlots : Nat := 8

/-! ## Free values -/

/-- FREE VALUE (log entry 2): the outcome of the `n`-th send when the environment has placed no answer for it.  The
spec calls it "a free draw of the environment" (R33, I5). -/
opaque Config.txDraw : Nat → TxOutcome

/-- FREE VALUE (log entry 3): how many bytes of the frame of the `n`-th send reached the line when that send failed.
"A model must allow any prefix of `f`, including all of it" (R33, I6). -/
opaque Config.sentPrefix : Nat → Nat

/-- FREE VALUE (log entry 1): what the environment presents next, the `n`-th time the block finds no event it accepts: one
event, or nothing.  The spec makes the events at the ports "free inputs of the step" (R6), which come in any sequence and
without end (R34, R160, R181, I7, I8, I9). -/
opaque Config.arrival : Nat → Option Event

/-- FREE VALUE (log entry 4): the names of the mode bits, OPEN in the spec (D27, I14).  No rule of the block reads them. -/
opaque Config.modeBits : ModeBits

end Sys2Proof
end

