-- ==== Sys2Proof/WellFormed.lean ====
section
/-! DEFINITION. What the spec calls well-formed: a field spec (R86), an operation's operands, and a parameter set (R8).
An ill-formed field spec can still be presented to `PACK` and `UNPACK`, which answer `FormatError` (R121). -/

namespace Sys2Proof

/-- A field kind is well-formed when its length, if it has one, is at least 1 (R86). -/
def FieldKind.wellFormed : FieldKind → Bool
  | .str n => 1 ≤ n
  | .skip n => 1 ≤ n
  | .lit => true
  | .byte => true
  | .nib => true
  | .chk => true

/-- A field spec is well-formed when every kind of it is (R86); the empty spec is. -/
def specWellFormed (spec : FieldSpec) : Bool := spec.all FieldKind.wellFormed

/-- An operation is well-formed when the field spec it carries is.  Every other operand is a full-width lane and no value
of it is ill-formed: validation refuses an out-of-range one with an error response (R80, R200). -/
def Instr.wellFormed : Instr → Bool
  | .setspeed _ _ _ => true
  | .setbrake _ _ _ => true
  | .setfuel _ _ _ => true
  | .setpos _ _ _ => true
  | .clrpos => true
  | .setlap _ => true
  | .ignore _ => true
  | .reset => true
  | .version => true
  | .request => true
  | .pressPaceCar => true
  | .pressStart => true
  | .pressSpeed => true
  | .pressBrake => true
  | .pressFuel => true
  | .pressCode => true
  | .pack spec _ => specWellFormed spec
  | .unpack spec _ => specWellFormed spec

/-- R8(a): the alphabet base is a multiple of 16 and the alphabet fits a byte. -/
def Params.alphabetOk (p : Params) : Bool := p.nibBase.toNat % 16 == 0 && p.nibBase.toNat + 15 ≤ 255

/-- The first byte of a fixed frame exists and differs from `b` (R8(b)). -/
def firstByteDiffers (b : Byte) : Frame → Bool
  | [] => false
  | x :: _ => x != b

/-- R8(b): no command frame other than the poll begins with `M0`. -/
def Params.tagsOk (p : Params) : Bool :=
  p.tagWord != p.m0 && p.tagIgnore != p.m0 && p.tagButton != p.m0 &&
    firstByteDiffers p.m0 p.resetFrame && firstByteDiffers p.m0 p.versionFrame

/-- R7, R215: the poll frame begins with `M0`, "first byte of the poll command"; R8 takes it as given (log entry 22). -/
def Params.pollOk (p : Params) : Bool := p.pollFrame.head? == some p.m0

/-- R8(c): `M1` is not the wire byte of a Timer address 1..8. -/
def Params.markerOk (p : Params) : Bool :=
  (List.range 8).all fun i => p.m1 != p.nibBase + BitVec.ofNat 8 (i + 1)

/-- R8(d): word identifiers fit five bits and button identifiers four. -/
def Params.idsOk (p : Params) : Bool :=
  [p.wSpeed, p.wBrake, p.wFuel, p.wPos, p.wLapHi, p.wLapLo].all (· ≤ 31) &&
    [p.btnPaceCar, p.btnStart, p.btnSpeed, p.btnBrake, p.btnFuel, p.btnCode].all (· ≤ 15)

/-- D43, I16: a bound on received frames, if there is one, is at least 18. -/
def Params.rxMaxOk (p : Params) : Bool :=
  match p.rxMaxLen with
  | none => true
  | some n => 18 ≤ n

/-- The configurations for which the block's rules are stated: R8(a) to (d), D43's bound, and the poll frame's
first byte (R7, log entry 22).  The constraint of D27 on the mode-bit names holds of every `ModeBits`.
`State.configure` checks them. -/
def Params.valid (p : Params) : Bool :=
  p.alphabetOk && p.tagsOk && p.pollOk && p.markerOk && p.idsOk && p.rxMaxOk

end Sys2Proof
end

