-- ==== Sys2Proof/Decode.lean ====
section
/-! DEFINITION. The host request encoding: the operation-code table and the bit positions of R80, the decoder (total,
naming the operation code it refuses, R101) and the encoder. -/

namespace Sys2Proof

/-- Why a request is no operation. -/
inductive DecodeError where
  /-- `IllegalOp`: the operation code is not in the table (R101). -/
  | illegalOp (op : Byte)
deriving DecidableEq, Repr

/-- The operation code of each operation (R80's table). -/
def opcodeByte : Opcode → Byte
  | .setspeed => 0x01
  | .setbrake => 0x02
  | .setfuel => 0x03
  | .setpos => 0x04
  | .clrpos => 0x05
  | .setlap => 0x06
  | .ignore => 0x07
  | .reset => 0x08
  | .version => 0x09
  | .request => 0x0A
  | .pressPaceCar => 0x10
  | .pressStart => 0x11
  | .pressSpeed => 0x12
  | .pressBrake => 0x13
  | .pressFuel => 0x14
  | .pressCode => 0x15
  | .pack => 0x20
  | .unpack => 0x21

/-- R80's table read the other way; every other value is reserved (R101). -/
def opcodeOfByte (b : Byte) : Option Opcode :=
  match b.toNat with
  | 0x01 => some .setspeed
  | 0x02 => some .setbrake
  | 0x03 => some .setfuel
  | 0x04 => some .setpos
  | 0x05 => some .clrpos
  | 0x06 => some .setlap
  | 0x07 => some .ignore
  | 0x08 => some .reset
  | 0x09 => some .version
  | 0x0A => some .request
  | 0x10 => some .pressPaceCar
  | 0x11 => some .pressStart
  | 0x12 => some .pressSpeed
  | 0x13 => some .pressBrake
  | 0x14 => some .pressFuel
  | 0x15 => some .pressCode
  | 0x20 => some .pack
  | 0x21 => some .unpack
  | _ => none

/-- `op`, bits 7..0 of the request word (R80). -/
def Request.op (r : Request) : Byte := r.word.extractLsb' 0 8

/-- `a`, bits 39..8 (R80). -/
def Request.a (r : Request) : Word32 := r.word.extractLsb' 8 32

/-- `v`, bits 71..40 (R80). -/
def Request.v (r : Request) : Word32 := r.word.extractLsb' 40 32

/-- `r`, bits 103..72 (R80). -/
def Request.r (r : Request) : Word32 := r.word.extractLsb' 72 32

/-- The operation a code selects, with the operand lanes it uses taken from the request (R80, R81). -/
def instrOf (r : Request) : Opcode → Instr
  | .setspeed => .setspeed r.a r.v r.r
  | .setbrake => .setbrake r.a r.v r.r
  | .setfuel => .setfuel r.a r.v r.r
  | .setpos => .setpos r.a r.v r.r
  | .clrpos => .clrpos
  | .setlap => .setlap r.v
  | .ignore => .ignore r.v
  | .reset => .reset
  | .version => .version
  | .request => .request
  | .pressPaceCar => .pressPaceCar
  | .pressStart => .pressStart
  | .pressSpeed => .pressSpeed
  | .pressBrake => .pressBrake
  | .pressFuel => .pressFuel
  | .pressCode => .pressCode
  | .pack => .pack r.spec r.vals
  | .unpack => .unpack r.spec r.buf

/-- The decoder: total on every request, refusing a reserved operation code by name (R80, R101). -/
def decode (r : Request) : Except DecodeError Instr :=
  match opcodeOfByte r.op with
  | some op => .ok (instrOf r op)
  | none => .error (.illegalOp r.op)

/-- The operation code of an operation. -/
def opcodeOf : Instr → Opcode
  | .setspeed _ _ _ => .setspeed
  | .setbrake _ _ _ => .setbrake
  | .setfuel _ _ _ => .setfuel
  | .setpos _ _ _ => .setpos
  | .clrpos => .clrpos
  | .setlap _ => .setlap
  | .ignore _ => .ignore
  | .reset => .reset
  | .version => .version
  | .request => .request
  | .pressPaceCar => .pressPaceCar
  | .pressStart => .pressStart
  | .pressSpeed => .pressSpeed
  | .pressBrake => .pressBrake
  | .pressFuel => .pressFuel
  | .pressCode => .pressCode
  | .pack _ _ => .pack
  | .unpack _ _ => .unpack

/-- The request word with the four fields of R80 in their places. -/
def requestWord (op : Opcode) (a v r : Word32) : ReqWord := ((r ++ v) ++ a) ++ opcodeByte op

/-- A request of format `REQ`: the bulk lanes are empty. -/
def wordRequest (op : Opcode) (a v r : Word32) : Request :=
  { word := requestWord op a v r, spec := [], vals := [], buf := [] }

/-- The encoder: "operands not used by a mnemonic are encoded as 0" (R104). -/
def encode : Instr → Request
  | .setspeed a v r => wordRequest .setspeed a v r
  | .setbrake a v r => wordRequest .setbrake a v r
  | .setfuel a v r => wordRequest .setfuel a v r
  | .setpos a v r => wordRequest .setpos a v r
  | .clrpos => wordRequest .clrpos 0 0 0
  | .setlap v => wordRequest .setlap 0 v 0
  | .ignore v => wordRequest .ignore 0 v 0
  | .reset => wordRequest .reset 0 0 0
  | .version => wordRequest .version 0 0 0
  | .request => wordRequest .request 0 0 0
  | .pressPaceCar => wordRequest .pressPaceCar 0 0 0
  | .pressStart => wordRequest .pressStart 0 0 0
  | .pressSpeed => wordRequest .pressSpeed 0 0 0
  | .pressBrake => wordRequest .pressBrake 0 0 0
  | .pressFuel => wordRequest .pressFuel 0 0 0
  | .pressCode => wordRequest .pressCode 0 0 0
  | .pack spec vals => { wordRequest .pack 0 0 0 with spec := spec, vals := vals }
  | .unpack spec buf => { wordRequest .unpack 0 0 0 with spec := spec, buf := buf }

/-- The request whose low `nbits` bits are those of `w`: every bit above them is 0 and the bulk lanes are empty. -/
def requestOfBits (nbits w : Nat) : Request :=
  { word := BitVec.ofNat 104 (w % 2 ^ nbits), spec := [], vals := [], buf := [] }

/-- The operation the decoder reads from a table word: its bits are the low bits of the request word. -/
def decodeTableWord (nbits w : Nat) : Option Instr :=
  match decode (requestOfBits nbits w) with
  | .ok i => some i
  | .error _ => none

end Sys2Proof
end

