-- ==== Sys2Proof/Machine/Parameters.lean ====
section
/-! DEFINITION. The default parameter values, the ones R7 takes. -/

namespace Sys2Proof.Machine

open Sys2Proof

/-- The parameters of R7 at the values the spec takes.  Those of rows marked `gk` are general knowledge of the CU
protocol, not facts of the source (G1). -/
def cu : Params :=
  { nibBase := 0x30
    padByte := 0x30
    m0 := 0x3F
    m1 := 0x3A
    tagWord := 0x4A
    tagIgnore := 0x3A
    resetFrame := [0x3D, 0x31, 0x30]
    versionFrame := [0x30]
    pollFrame := [0x3F]
    tagButton := 0x54
    btnPaceCar := 1
    btnStart := 2
    btnSpeed := 5
    btnBrake := 6
    btnFuel := 7
    btnCode := 8
    wSpeed := 0
    wBrake := 1
    wFuel := 2
    wPos := 6
    wLapHi := 17
    wLapLo := 18
    lapAddr := 7
    clrposAddr := 0
    clrposValue := 0
    clrposRepeat := 9
    timerLead := 1
    versionLead := 1
    rxMaxLen := none }

end Sys2Proof.Machine
end

