-- ==== Sys2Proof/Machine/State.lean ====
section
/-! DEFINITION. The records the block reports (R37 to R39), the events at its ports (R30 to R36), its six registers (R20)
with the block's parameters and the environment's side of the ports beside them, and the reasons a step can stop. -/

namespace Sys2Proof.Machine

open Sys2Proof

/-- The correlator's state (R22). -/
inductive Phase where
  /-- `IDLE`: no outstanding request. -/
  | idle
  /-- `AWAIT`: a command was sent and its reply is awaited. -/
  | await
deriving DecidableEq, Repr

/-! ## Records -/

/-- A decoded Status reply (R37).  No field's range is checked. -/
structure Status where
  /-- Fuel level of each controller slot. -/
  fuel : Vector Nibble fuelSlots
  /-- Start-light stage. -/
  start : Nibble
  /-- The CU's mode bits as the raw nibble (R28). -/
  mode : Nibble
  /-- Pit-lane detection of each slot. -/
  pit : Vector Bool pitSlots
  /-- Display count. -/
  display : Nibble
deriving DecidableEq, Repr

/-- A decoded Timer reply (R38). -/
structure Timer where
  /-- Controller address: the wire nibble minus one, an integer (wire 0 gives −1). -/
  address : Int
  /-- Timestamp in milliseconds, `u32`. -/
  timestamp : Word32
  /-- Sector. -/
  sector : Nibble
deriving DecidableEq, Repr

/-- The result union of R39. -/
inductive Result where
  /-- `STATUS`. -/
  | status (st : Status)
  /-- `TIMER`. -/
  | timer (t : Timer)
  /-- `RAW`: a matched reply as received. -/
  | raw (f : Frame)
  /-- `VERSION`: the identifier string. -/
  | version (id : Frame)
  /-- `PACKED`. -/
  | packed (f : Frame)
  /-- `UNPACKED`. -/
  | unpacked (vs : List Value)
deriving DecidableEq, Repr

/-- The operand a validation check refuses (R200): a label for the reader, not carried on `RSP` (R241). -/
inductive ValidationCause where
  | address | value | position | lap
deriving DecidableEq, Repr

/-- The sub-cause of a `FormatError` (R121, R123, R128): a label for the reader, not carried on `RSP` (R241). -/
inductive FormatCause where
  | malformedSpec | countMismatch | range | short
deriving DecidableEq, Repr

/-- The errors an operation can end with (R241). -/
inductive BlockError where
  /-- `ValidationError`. -/
  | validation (c : ValidationCause)
  /-- `FormatError`. -/
  | format (c : FormatCause)
  /-- `ChecksumError(k)`: the checksum byte at offset `k` differs (R131). -/
  | checksum (k : Nat)
  /-- `TimeoutError`. -/
  | timeout
  /-- `IOError`. -/
  | io
  /-- `IllegalOp`. -/
  | illegalOp
deriving DecidableEq, Repr

/-- A response on `RSP` (R32): a result, or the error code, a `u8` (R241). -/
inductive Response where
  | ok (r : Result)
  | err (code : Byte)
deriving DecidableEq, Repr

/-- What a build function returns (R162).  `send` carries the first frame and the frames after it, so that its list is
not empty. -/
inductive Build where
  /-- `Fail(code)`: validation or packing refused the request. -/
  | fail (e : BlockError)
  /-- `Local(result)`: no I/O is needed. -/
  | done (r : Result)
  /-- `Send([f, …])`. -/
  | send (f : Frame) (rest : List Frame)
deriving DecidableEq, Repr

/-! ## Emitted events -/

/-- An event the block emits. -/
inductive PortEvent where
  /-- `TX`: the frame offered, the transport's answer, and the bytes that reached the line (R33). -/
  | tx (f : Frame) (o : TxOutcome) (line : Frame)
  /-- `RSP`: one response (R32). -/
  | rsp (r : Response)
  /-- `DIAG`: `DISCARDED(f)` (R35). -/
  | diag (f : Frame)
deriving DecidableEq, Repr

/-! ## State -/

/-- The state: the parameters the block was built with (R7, R29; log entry 21), the six registers of R20, then the
environment's side of the ports (log entries 1, 2 and 5), which the spec makes "free inputs of the step" (R6) and a
deterministic step has to read from its state. -/
structure State where
  /-- The static parameters: every operation and decoder works with them, and no step writes them (R29). -/
  params : Params
  /-- `phase` (R22). -/
  phase : Phase
  /-- `closed`: the transport has been released (R23). -/
  closed : Bool
  /-- `key`: the first byte of the command frame last sent; `none` is `NONE` (R24). -/
  key : Option Byte
  /-- `queue`: the command frames of the current operation not yet sent (R25). -/
  queue : List Frame
  /-- `ctx`: the operation being served; `none` is `NONE` (R26). -/
  ctx : Option Opcode
  /-- `discards`: reply frames discarded since the current operation was accepted, unbounded (R27). -/
  discards : Nat
  /-- The events the environment has presented and the block has not taken, in the order the environment chose (R160).
  The `RX` events among them are the receive transport's buffer (R34, R41); past its end the environment's next event is a
  free value. -/
  events : List Event
  /-- How often the block has found no event it accepts: the counter the environment's next events are drawn by. -/
  arrivals : Nat
  /-- The answers the transmit transport will give to the next sends (R33); past its end an answer is a free value. -/
  txAnswers : List TxOutcome
  /-- How many frames have been offered on `TX`: the counter the free values of the transmit transport are drawn by. -/
  sends : Nat
  /-- The events the block has emitted on `TX`, `RSP` and `DIAG`, oldest first. -/
  out : List PortEvent
deriving DecidableEq, Repr

/-- The machine right after reset, built with the default parameters: every register as R40 gives it, no event presented,
none emitted ("No port holds an event at reset"). -/
def State.reset : State :=
  { params := cu
    phase := .idle
    closed := false
    key := none
    queue := []
    ctx := none
    discards := 0
    events := []
    arrivals := 0
    txAnswers := []
    sends := 0
    out := [] }

/-! ## Stops -/

/-- The faults.  Neither is reachable under the rules (I10, I11): each is a read of a register holding a value that R24
or R25 says it never holds then.  Safe: the model stops where the spec gives no behaviour. -/
inductive Fault where
  /-- The key comparison of R168 reads `key` while it is `NONE` (R24, I10).  Raised by `onFrame`; safe. -/
  | keyReadWhileNone
  /-- R169 reads a `queue` that is longer than one frame or holds an empty frame (I11).  Raised by `onMatch`; safe. -/
  | queueMalformed
deriving DecidableEq, Repr

/-- The refusals.  No operation is refused: every one has its meaning. -/
inductive Refusal where
  /-- The instruction of this mnemonic has no meaning yet.  Raised by an arm of `exec`, by none today; safe. -/
  | notModelled (mnemonic : String)
deriving DecidableEq, Repr

/-- The three outcomes of one step of this machine. -/
abbrev StepOutcome := Host.Outcome State Fault Refusal

end Sys2Proof.Machine
end

