-- ==== Sys2Proof/Machine/Codec.lean ====
section
/-! DEFINITION. The codec: the wire alphabet (R82, R83), the field kinds' widths and arity (R84), the checksum (R122),
`pack` (R123 to R127) and `unpack` (R128 to R135). -/

namespace Sys2Proof.Machine

open Sys2Proof

/-! ## Wire alphabet -/

/-- `NIB(v) = NIB_BASE + v` (R82). -/
def nib (p : Params) (v : Nat) : Byte := p.nibBase + BitVec.ofNat 8 v

/-- `VAL(b) = b mod 16`, for every byte, alphabet or not (R83). -/
def wireVal (b : Byte) : Nat := b.toNat % alphaBase

/-- `CHK(bs)`: the sum of the bytes' values mod 16, re-encoded in the alphabet (R122). -/
def checksumByte (p : Params) (bs : Frame) : Byte := nib p ((bs.map wireVal).sum % alphaBase)

/-! ## Field kinds -/

/-- The wire bytes of a field kind (R84). -/
def kindWidth : FieldKind → Nat
  | .lit => 1
  | .str n => n
  | .byte => 2
  | .nib => 1
  | .skip n => n
  | .chk => 1

/-- `wlen(spec)`: the wire length of a field spec (R84). -/
def wireLength (spec : FieldSpec) : Nat := (spec.map kindWidth).sum

/-- Whether a kind takes a value in `pack` and gives one in `unpack` (R84). -/
def takesValue : FieldKind → Bool
  | .lit => true
  | .str _ => true
  | .byte => true
  | .nib => true
  | .skip _ => false
  | .chk => false

/-- `arity(spec)`: the number of kinds that take a value (R84). -/
def arity (spec : FieldSpec) : Nat := (spec.filter takesValue).length

/-- The offsets of the checksum kinds of a spec laid out from offset `k` (R120). -/
def checksumOffsets : FieldSpec → Nat → List Nat
  | [], _ => []
  | .chk :: ks, k => k :: checksumOffsets ks (k + 1)
  | kind :: ks, k => checksumOffsets ks (k + kindWidth kind)

/-! ## pack -/

/-- R123's check of one value against its kind: the range of R84, or the string's length; a value of the wrong type does
not fit. -/
def valueFits : FieldKind → Value → Bool
  | .lit, .int v => 0 ≤ v && v ≤ 255
  | .byte, .int v => 0 ≤ v && v ≤ 255
  | .nib, .int v => 0 ≤ v && v ≤ 15
  | .str n, .bytes s => s.length == n
  | _, _ => false

/-- Each value-taking kind paired with the next value, in order (R123). -/
def pairValues (spec : FieldSpec) (vals : List Value) : List (FieldKind × Value) :=
  (spec.filter takesValue).zip vals

/-- R123's range check of every pair. -/
def valuesFit (spec : FieldSpec) (vals : List Value) : Bool :=
  (pairValues spec vals).all fun kv => valueFits kv.1 kv.2

/-- The bytes a value kind emits for a value that fits it (R124); a value byte is sent low nibble first (R63). -/
def encodeValue (p : Params) : FieldKind → Value → Frame
  | .lit, .int v => [BitVec.ofInt 8 v]
  | .str _, .bytes s => s
  | .byte, .int v => [nib p (v.toNat % 16), nib p (v.toNat / 16 % 16)]
  | .nib, .int v => [nib p v.toNat]
  | _, _ => []

/-- Emission of a whole spec after the bytes `out` (R124, R125).  A value kind with no value left emits nothing; `pack`'s
count check keeps that case out. -/
def emitFields (p : Params) : FieldSpec → List Value → Frame → Frame
  | [], _, out => out
  | .chk :: ks, vs, out => emitFields p ks vs (out ++ [checksumByte p out])
  | .skip n :: ks, vs, out => emitFields p ks vs (out ++ List.replicate n p.padByte)
  | kind :: ks, v :: vs, out => emitFields p ks vs (out ++ encodeValue p kind v)
  | _ :: ks, [], out => emitFields p ks [] out

/-- `pack(spec, vals)` (R123): the spec is checked first, then the count, then the ranges, then the bytes are emitted. -/
def pack (p : Params) (spec : FieldSpec) (vals : List Value) : Except BlockError Frame :=
  if !specWellFormed spec then .error (.format .malformedSpec)
  else if vals.length != arity spec then .error (.format .countMismatch)
  else if !valuesFit spec vals then .error (.format .range)
  else .ok (emitFields p spec vals [])

/-! ## unpack -/

/-- `buf[k]`; every use lies within the frame by `unpack`'s length check (R128). -/
def byteAt (buf : Frame) (k : Nat) : Byte := buf.getD k 0

/-- A `B` field at offset `k`: `VAL(buf[k]) + 16 × VAL(buf[k+1])` (R129). -/
def valueByteAt (buf : Frame) (k : Nat) : Nat := wireVal (byteAt buf k) + 16 * wireVal (byteAt buf (k + 1))

/-- Decoding and verifying a spec from offset `k` (R129, R131), stopping at the first checksum byte that differs (R134). -/
def decodeFields (p : Params) (buf : Frame) : FieldSpec → Nat → Except BlockError (List Value)
  | [], _ => .ok []
  | .lit :: ks, k => (decodeFields p buf ks (k + 1)).map (Value.int (byteAt buf k).toNat :: ·)
  | .str n :: ks, k => (decodeFields p buf ks (k + n)).map (Value.bytes ((buf.drop k).take n) :: ·)
  | .byte :: ks, k => (decodeFields p buf ks (k + 2)).map (Value.int (valueByteAt buf k) :: ·)
  | .nib :: ks, k => (decodeFields p buf ks (k + 1)).map (Value.int (wireVal (byteAt buf k)) :: ·)
  | .skip n :: ks, k => decodeFields p buf ks (k + n)
  | .chk :: ks, k =>
    if byteAt buf k = checksumByte p (buf.take k) then decodeFields p buf ks (k + 1) else .error (.checksum k)

/-- `unpack(spec, buf)` (R128): the spec is checked first, then the length, then the fields are decoded.  Bytes past
`wlen(spec)` are ignored (R133). -/
def unpack (p : Params) (spec : FieldSpec) (buf : Frame) : Except BlockError (List Value) :=
  if !specWellFormed spec then .error (.format .malformedSpec)
  else if buf.length < wireLength spec then .error (.format .short)
  else decodeFields p buf spec 0

end Sys2Proof.Machine
end

