-- ==== Sys2Proof/Machine/Operands.lean ====
section
/-! DEFINITION. The operand checks of the facade (R200) and the command-frame builders (R90 to R95, R201, R202). -/

namespace Sys2Proof.Machine

open Sys2Proof

/-! ## Validation (R200) -/

/-- `chkAddr`: a controller address is in 0..7. -/
def chkAddr (a : Int) : Except BlockError Unit :=
  if 0 ≤ a ∧ a ≤ 7 then .ok () else .error (.validation .address)

/-- `chkNval`: a speed, brake or fuel value is in 0..15. -/
def chkNval (v : Int) : Except BlockError Unit :=
  if 0 ≤ v ∧ v ≤ 15 then .ok () else .error (.validation .value)

/-- `chkPos`: a position is in 1..8. -/
def chkPos (v : Int) : Except BlockError Unit :=
  if 1 ≤ v ∧ v ≤ 8 then .ok () else .error (.validation .position)

/-- `chkLap`: a lap is in 0..255. -/
def chkLap (v : Int) : Except BlockError Unit :=
  if 0 ≤ v ∧ v ≤ 255 then .ok () else .error (.validation .lap)

/-! ## Frames -/

/-- `WA(word, addr) = word | (addr << 5)` (R90). -/
def wordAddress (word addr : Nat) : Nat := word ||| (addr <<< 5)

/-- The word-write format `cBYYC` (R92). -/
def wordWriteFmt : FieldSpec := [.lit, .byte, .nib, .nib, .chk]

/-- The ignore-controller format `cBC` (R93). -/
def ignoreFmt : FieldSpec := [.lit, .byte, .chk]

/-- `WW(word, a, v, r)`: the word-write frame (R201). -/
def wordWrite (p : Params) (word addr : Nat) (v r : Int) : Except BlockError Frame :=
  pack p wordWriteFmt [.int p.tagWord.toNat, .int (wordAddress word addr), .int v, .int r]

/-- The ignore-controller frame of a mask (R93, R212). -/
def ignoreFrame (p : Params) (mask : Int) : Except BlockError Frame :=
  pack p ignoreFmt [.int p.tagIgnore.toNat, .int mask]

/-- A button frame: `[TAG_BUTTON, NIB(id)]` (R95). -/
def buttonFrame (p : Params) (id : Nat) : Frame := [p.tagButton, nib p id]

/-! ## Build functions (R162) -/

/-- The build that sends the frames it could pack, or fails with the error that stopped it. -/
def sendBuild : Except BlockError (Frame × List Frame) → Build
  | .ok (f, rest) => .send f rest
  | .error e => .fail e

/-- `FX(frame)`: one fixed frame, no check (R202). -/
def fixedBuild (f : Frame) : Build := .send f []

/-- A word-write operation (R206 to R209): the address check, then the value check, then the frame, whose packing checks
the repeat count (R201, R249). -/
def wordWriteBuild (p : Params) (word : Nat) (chkValue : Int → Except BlockError Unit) (a v r : Int) : Build :=
  sendBuild do
    chkAddr a
    chkValue v
    let f ← wordWrite p word a.toNat v r
    return (f, [])

/-- `CLRPOS`: the position word-write with fixed operands (R210). -/
def clrposBuild (p : Params) : Build :=
  sendBuild do
    let f ← wordWrite p p.wPos p.clrposAddr p.clrposValue p.clrposRepeat
    return (f, [])

/-- `SETLAP`: the high-nibble word-write, then the low-nibble one, each with repeat count 1 (R211). -/
def setlapBuild (p : Params) (v : Int) : Build :=
  sendBuild do
    chkLap v
    let hi ← wordWrite p p.wLapHi p.lapAddr (v / 16 % 16) 1
    let lo ← wordWrite p p.wLapLo p.lapAddr (v % 16) 1
    return (hi, [lo])

/-- `IGNORE`: no facade check; packing checks the mask (R212). -/
def ignoreBuild (p : Params) (v : Int) : Build :=
  sendBuild do
    let f ← ignoreFrame p v
    return (f, [])

/-- `PACK`: the packed frame is the result (R222). -/
def packBuild (p : Params) (spec : FieldSpec) (vals : List Value) : Build :=
  match pack p spec vals with
  | .ok f => .done (.packed f)
  | .error e => .fail e

/-- `UNPACK`: the decoded values are the result (R223). -/
def unpackBuild (p : Params) (spec : FieldSpec) (buf : Frame) : Build :=
  match unpack p spec buf with
  | .ok vs => .done (.unpacked vs)
  | .error e => .fail e

end Sys2Proof.Machine
end

