-- ==== Sys2Proof/Machine/Ops.lean ====
section
/-! DEFINITION. The named operations on the registers and the ports: emitting a response or a discard, ending an
operation with a result or an error (R165, R240), offering a frame on `TX` and starting the wait for its reply (R164),
accepting a request (R162, R163), block reset (R270), and the arrival of an event at a port (R34, R181). -/

namespace Sys2Proof.Machine

open Sys2Proof

/-! ## Emitting -/

/-- `respond(r)`: one response event on `RSP` (R32). -/
def State.respond (r : Response) (s : State) : State := { s with out := s.out ++ [.rsp r] }

/-- R168's discard of a frame: one more in `discards`, one event on `DIAG`, nothing else. -/
def State.discardFrame (f : Frame) (s : State) : State :=
  { s with discards := s.discards + 1, out := s.out ++ [.diag f] }

/-! ## Ending an operation -/

/-- The numeric code of an error on `RSP` (R241). -/
def errorNumber : BlockError → Byte
  | .validation _ => 1
  | .format _ => 2
  | .checksum _ => 3
  | .timeout => 4
  | .io => 5
  | .illegalOp => 6

/-- The four writes that end an operation (R165); `discards` keeps its value. -/
def State.release (s : State) : State := { s with phase := .idle, key := none, queue := [], ctx := none }

/-- `end_ok(r)` (R165). -/
def endOk (r : Result) (s : State) : State := s.release.respond (.ok r)

/-- `end_err(e)` (R165), what raising an error in an exchange does (R240): the registers as R165 leaves them and one
`ERR(code)` response.  Nothing is saved and nothing is undone (R250); there is no return from it (R251). -/
def endErr (e : BlockError) (s : State) : State := s.release.respond (.err (errorNumber e))

/-! ## Sending -/

/-- The answer the next `TxSend` gets (R33): a released transport gives `TX_IOERR`; otherwise the answer the environment
has placed, or a free value where it has placed none. -/
def txOutcome (s : State) : TxOutcome :=
  if s.closed then .ioerr
  else
    match s.txAnswers with
    | o :: _ => o
    | [] => Config.txDraw s.sends

/-- The bytes of frame `f` that reach the line in the `n`-th send: all of them on `TX_OK`; on a failure a prefix of
which nothing is known (R33, I6). -/
def lineBytes (f : Frame) (n : Nat) : TxOutcome → Frame
  | .ok => f
  | .timeout => f.take (Config.sentPrefix n)
  | .ioerr => f.take (Config.sentPrefix n)

/-- What every `TxSend(f)` does, whatever its outcome: the answer is used up, the send is counted, and the `TX` event is
emitted (R33). -/
def State.offer (f : Frame) (s : State) : State :=
  { s with
    txAnswers := s.txAnswers.tail
    sends := s.sends + 1
    out := s.out ++ [.tx f (txOutcome s) (lineBytes f s.sends (txOutcome s))] }

/-- The wait for the reply to `f`, with `rest` still to send (R164, on `TX_OK`). -/
def State.await (f : Frame) (rest : List Frame) (s : State) : State :=
  { s with phase := .await, key := f.head?, queue := rest }

/-- `send(f, rest)` (R164). -/
def send (f : Frame) (rest : List Frame) (s : State) : State :=
  match txOutcome s with
  | .ok => (s.offer f).await f rest
  | .timeout => endErr .timeout (s.offer f)
  | .ioerr => endErr .io (s.offer f)

/-! ## Accepting a request -/

/-- `discards <- 0`, as for every request taken from `REQ` (R162). -/
def State.clearDiscards (s : State) : State := { s with discards := 0 }

/-- `ctx <- op` (R163). -/
def State.serve (op : Opcode) (s : State) : State := { s with ctx := some op }

/-- A request that is refused before any I/O: `ERR(code)` at once, nothing sent, and no register written but `discards`
(R101, R162). -/
def refuse (e : BlockError) (s : State) : State := s.clearDiscards.respond (.err (errorNumber e))

/-- Accepting a request of operation `op` whose build returned `b` (R162, R163).  `REQ` is ready exactly when `phase` is
`IDLE`: in `AWAIT` the request is not taken and nothing changes (R31). -/
def accept (op : Opcode) (b : Build) (s : State) : State :=
  match s.phase with
  | .await => s
  | .idle =>
    match b with
    | .fail e => refuse e s
    | .done r => s.clearDiscards.respond (.ok r)
    | .send f rest => send f rest (s.clearDiscards.serve op)

/-! ## Arrivals -/

/-- The block waits, and the environment presents `e` after the events it has presented, or nothing (R34, R160, R181). -/
def State.arrive (e : Option Event) (s : State) : State :=
  { s with events := s.events ++ e.toList, arrivals := s.arrivals + 1 }

/-! ## Reset -/

/-- Block reset (R270): every register at its reset value, an operation in flight abandoned with no response.  The
parameters are fixed (R29, R273), the transports' side of the ports is untouched, and what was emitted stays emitted. -/
def blockReset (s : State) : State :=
  { State.reset with
    params := s.params
    events := s.events
    arrivals := s.arrivals
    txAnswers := s.txAnswers
    sends := s.sends
    out := s.out }

/-- A block built with the parameters `p`, right after reset, if they meet the constraints a model must check on its
configuration (R8, R273). -/
def State.configure (p : Params) : Option State := if p.valid then some { State.reset with params := p } else none

end Sys2Proof.Machine
end

