-- ==== Sys2Proof/Machine/Session.lean ====
section
/-! DEFINITION. The correlator: the reply formats (R96 to R99), classification and the decoders (R172 to R179), and what
the block does on an event of `RX` and on `CLOSE` (R161, R166 to R171). -/

namespace Sys2Proof.Machine

open Sys2Proof

/-! ## Reply formats -/

/-- The fields of a status reply before its checksum: `2x8YYYBY` (R96). -/
def statusFields : FieldSpec := .skip 2 :: (List.replicate fuelSlots .nib ++ [.nib, .nib, .byte, .nib])

/-- `STATUS_FMT = 2x8YYYBYC` (R96). -/
def statusFmt : FieldSpec := statusFields ++ [.chk]

/-- `STATUS_FMT_X = 2x8YYYBY2xC` (R97). -/
def statusFmtX : FieldSpec := statusFields ++ [.skip statusExtra, .chk]

/-- The reply-format shorthand `I`: four value bytes (R85, R130). -/
def wordField : FieldSpec := List.replicate 4 .byte

/-- `TIMER_FMT = xYIYC`, with `TIMER_LEAD` lead bytes (R98). -/
def timerFmt (p : Params) : FieldSpec := .skip p.timerLead :: .nib :: (wordField ++ [.nib, .chk])

/-- `VERSION_FMT = x4sC`, with `VERSION_LEAD` lead bytes (R99). -/
def versionFmt (p : Params) : FieldSpec := [.skip p.versionLead, .str versionLen, .chk]

/-! ## Records -/

/-- The integer of a decoded value; the reply formats' values are read through it by position. -/
def Value.asInt : Value → Int
  | .int n => n
  | .bytes _ => 0

/-- The integer at position `i` of a decoded list; the reply formats give a value at every position read. -/
def intAt (t : List Value) (i : Nat) : Int := Value.asInt (t.getD i (.int 0))

/-- `status_rec(t)` (R175): slot `n`'s pit flag is bit `n` of the pit mask. -/
def statusRec (t : List Value) : Status :=
  { fuel := Vector.ofFn fun i => BitVec.ofInt 4 (intAt t i.val)
    start := BitVec.ofInt 4 (intAt t 8)
    mode := BitVec.ofInt 4 (intAt t 9)
    pit := Vector.ofFn fun i => (intAt t 10).toNat.testBit i.val
    display := BitVec.ofInt 4 (intAt t 11) }

/-- The four bytes of an `I` field combined most significant first (R130). -/
def combineBytes (b0 b1 b2 b3 : Int) : Int := b0 * 2 ^ 24 + b1 * 2 ^ 16 + b2 * 2 ^ 8 + b3

/-- The Timer record of R176: the address is the wire nibble minus one, an integer. -/
def timerRec (t : List Value) : Timer :=
  { address := intAt t 0 - 1
    timestamp := BitVec.ofInt 32 (combineBytes (intAt t 1) (intAt t 2) (intAt t 3) (intAt t 4))
    sector := BitVec.ofInt 4 (intAt t 5) }

/-- The byte string of a decoded value. -/
def Value.asBytes : Value → Frame
  | .bytes s => s
  | .int _ => []

/-- The identifier of a version reply (R179). -/
def versionId (t : List Value) : Frame := Value.asBytes (t.getD 0 (.bytes []))

/-! ## Decoders -/

/-- Status decoding (R173, R174): the canonical format, and only after its `ChecksumError` the extended one, whose
failure of either kind is reported as a `ChecksumError`. -/
def decodeStatus (p : Params) (f : Frame) : Except BlockError Result :=
  match unpack p statusFmt f with
  | .ok t => .ok (.status (statusRec t))
  | .error (.checksum k) =>
    match unpack p statusFmtX f with
    | .ok t => .ok (.status (statusRec t))
    | .error (.checksum k') => .error (.checksum k')
    | .error _ => .error (.checksum k)
  | .error e => .error e

/-- Timer decoding (R176): one format, every error the outcome. -/
def decodeTimer (p : Params) (f : Frame) : Except BlockError Result :=
  match unpack p (timerFmt p) f with
  | .ok t => .ok (.timer (timerRec t))
  | .error e => .error e

/-- Version decoding (R179): one format, every error the outcome. -/
def decodeVersion (p : Params) (f : Frame) : Except BlockError Result :=
  match unpack p (versionFmt p) f with
  | .ok t => .ok (.version (versionId t))
  | .error e => .error e

/-- Whether a frame starts with the two-byte status marker `M0 M1` (R100, R172). -/
def startsStatus (p : Params) : Frame → Bool
  | b0 :: b1 :: _ => b0 == p.m0 && b1 == p.m1
  | _ => false

/-- Whether a frame starts with the generic marker `M0` (R100, R172). -/
def startsGeneric (p : Params) : Frame → Bool
  | b0 :: _ => b0 == p.m0
  | [] => false

/-- `classify(f)` (R172): the status marker, then the generic marker, then neither. -/
def classify (p : Params) (f : Frame) : Except BlockError Result :=
  if startsStatus p f then decodeStatus p f
  else if startsGeneric p f then decodeTimer p f
  else .ok (.raw f)

/-- `post(ctx, f)` (R178): the classification, with an unrecognised reply to `VERSION` decoded as a version reply. -/
def postProcess (p : Params) (ctx : Option Opcode) (f : Frame) : Except BlockError Result :=
  match classify p f with
  | .ok (.raw g) => if ctx = some .version then decodeVersion p g else .ok (.raw g)
  | .ok r => .ok r
  | .error e => .error e

/-! ## Receive events -/

/-- R170's end: `end_ok` of a result, `end_err` of an error. -/
def finish (s : State) : Except BlockError Result → State
  | .ok r => endOk r s
  | .error e => endErr e s

/-- A matched frame: with nothing left to send it is decoded (R170); with one frame left it is dropped and that frame is
sent (R169).  Any other queue is one the rules never reach (I11). -/
def onMatch (f : Frame) (s : State) : StepOutcome :=
  match s.queue with
  | [] => .next (finish s (postProcess s.params s.ctx f))
  | [b :: g] => .next (send (b :: g) [] s)
  | _ => .fault .queueMalformed

/-- `FRAME(f)` in `AWAIT` (R161): the timeout indication (R166), a match or a discard (R168). -/
def onFrame (f : Frame) (s : State) : StepOutcome :=
  match f with
  | [] => .next (endErr .timeout s)
  | b :: _ =>
    match s.key with
    | none => .fault .keyReadWhileNone
    | some k => if b = k then onMatch f s else .next (s.discardFrame f)

/-- An `RX` event in `AWAIT` (R161): a frame, or the receive error (R167). -/
def onRx (e : RxEvent) (s : State) : StepOutcome :=
  match e with
  | .frame f => onFrame f s
  | .ioerr => .next (endErr .io s)

/-! ## Close -/

/-- `closed <- 1` (R171). -/
def State.shut (s : State) : State := { s with closed := true }

/-- `CLOSE` (R171): in `AWAIT` it also ends the operation with `IOError`. -/
def onClose (s : State) : State :=
  match s.phase with
  | .idle => s.shut
  | .await => endErr .io s.shut

end Sys2Proof.Machine
end

