-- ==== Sys2Proof/Machine/CodecOps.lean ====
section
/-! DEFINITION. The codec operations (R222, R223): they send nothing and need no transport. -/

namespace Sys2Proof.Machine

open Sys2Proof

/-- `PACK spec, vals` (R222). -/
def execPack (spec : FieldSpec) (vals : List Value) (s : State) : StepOutcome :=
  .next (accept .pack (packBuild s.params spec vals) s)

/-- `UNPACK spec, buf` (R223). -/
def execUnpack (spec : FieldSpec) (buf : Frame) (s : State) : StepOutcome :=
  .next (accept .unpack (unpackBuild s.params spec buf) s)

end Sys2Proof.Machine
end

