-- ==== Sys2Proof/Machine/FixedFrame.lean ====
section
/-! DEFINITION. The operations that send one fixed frame (R213 to R221). -/

namespace Sys2Proof.Machine

open Sys2Proof

/-- `RESET`: the CU's timer reset (R213). -/
def execReset (s : State) : StepOutcome := .next (accept .reset (fixedBuild s.params.resetFrame) s)

/-- `VERSION` (R214). -/
def execVersion (s : State) : StepOutcome := .next (accept .version (fixedBuild s.params.versionFrame) s)

/-- `REQUEST`: the poll (R215). -/
def execRequest (s : State) : StepOutcome := .next (accept .request (fixedBuild s.params.pollFrame) s)

/-- `PRESS_PACE_CAR` (R216). -/
def execPressPaceCar (s : State) : StepOutcome :=
  .next (accept .pressPaceCar (fixedBuild (buttonFrame s.params s.params.btnPaceCar)) s)

/-- `PRESS_START` (R217). -/
def execPressStart (s : State) : StepOutcome :=
  .next (accept .pressStart (fixedBuild (buttonFrame s.params s.params.btnStart)) s)

/-- `PRESS_SPEED` (R218). -/
def execPressSpeed (s : State) : StepOutcome :=
  .next (accept .pressSpeed (fixedBuild (buttonFrame s.params s.params.btnSpeed)) s)

/-- `PRESS_BRAKE` (R219). -/
def execPressBrake (s : State) : StepOutcome :=
  .next (accept .pressBrake (fixedBuild (buttonFrame s.params s.params.btnBrake)) s)

/-- `PRESS_FUEL` (R220). -/
def execPressFuel (s : State) : StepOutcome :=
  .next (accept .pressFuel (fixedBuild (buttonFrame s.params s.params.btnFuel)) s)

/-- `PRESS_CODE` (R221). -/
def execPressCode (s : State) : StepOutcome :=
  .next (accept .pressCode (fixedBuild (buttonFrame s.params s.params.btnCode)) s)

end Sys2Proof.Machine
end

