-- ==== Sys2Proof/Machine/WordWrite.lean ====
section
/-! DEFINITION. The word-write operations and the ignore-controller operation (R206 to R212). -/

namespace Sys2Proof.Machine

open Sys2Proof

/-- `SETSPEED a, v, r` (R206). -/
def execSetspeed (a v r : Word32) (s : State) : StepOutcome :=
  .next (accept .setspeed (wordWriteBuild s.params s.params.wSpeed chkNval a.toInt v.toInt r.toInt) s)

/-- `SETBRAKE a, v, r` (R207). -/
def execSetbrake (a v r : Word32) (s : State) : StepOutcome :=
  .next (accept .setbrake (wordWriteBuild s.params s.params.wBrake chkNval a.toInt v.toInt r.toInt) s)

/-- `SETFUEL a, v, r` (R208). -/
def execSetfuel (a v r : Word32) (s : State) : StepOutcome :=
  .next (accept .setfuel (wordWriteBuild s.params s.params.wFuel chkNval a.toInt v.toInt r.toInt) s)

/-- `SETPOS a, v, r` (R209): the position is sent as given, 1..8. -/
def execSetpos (a v r : Word32) (s : State) : StepOutcome :=
  .next (accept .setpos (wordWriteBuild s.params s.params.wPos chkPos a.toInt v.toInt r.toInt) s)

/-- `CLRPOS` (R210). -/
def execClrpos (s : State) : StepOutcome := .next (accept .clrpos (clrposBuild s.params) s)

/-- `SETLAP v` (R211): two exchanges; the second frame waits in `queue`. -/
def execSetlap (v : Word32) (s : State) : StepOutcome := .next (accept .setlap (setlapBuild s.params v.toInt) s)

/-- `IGNORE v` (R212). -/
def execIgnore (v : Word32) (s : State) : StepOutcome := .next (accept .ignore (ignoreBuild s.params v.toInt) s)

end Sys2Proof.Machine
end

