-- ==== Sys2Proof/Machine/Dispatch.lean ====
section
/-! DEFINITION. The dispatch: one arm per host operation, each one direct call of its meaning. -/

namespace Sys2Proof.Machine

open Sys2Proof

/-- What an operation does when its request is taken from `REQ`. -/
def exec (i : Instr) (s : State) : Host.Outcome State Fault Refusal :=
  match i with
  | .setspeed a v r => Sys2Proof.Machine.execSetspeed a v r s
  | .setbrake a v r => Sys2Proof.Machine.execSetbrake a v r s
  | .setfuel a v r => Sys2Proof.Machine.execSetfuel a v r s
  | .setpos a v r => Sys2Proof.Machine.execSetpos a v r s
  | .clrpos => Sys2Proof.Machine.execClrpos s
  | .setlap v => Sys2Proof.Machine.execSetlap v s
  | .ignore v => Sys2Proof.Machine.execIgnore v s
  | .reset => Sys2Proof.Machine.execReset s
  | .version => Sys2Proof.Machine.execVersion s
  | .request => Sys2Proof.Machine.execRequest s
  | .pressPaceCar => Sys2Proof.Machine.execPressPaceCar s
  | .pressStart => Sys2Proof.Machine.execPressStart s
  | .pressSpeed => Sys2Proof.Machine.execPressSpeed s
  | .pressBrake => Sys2Proof.Machine.execPressBrake s
  | .pressFuel => Sys2Proof.Machine.execPressFuel s
  | .pressCode => Sys2Proof.Machine.execPressCode s
  | .pack spec vals => Sys2Proof.Machine.execPack spec vals s
  | .unpack spec buf => Sys2Proof.Machine.execUnpack spec buf s

end Sys2Proof.Machine
end

