-- ==== Sys2Proof/Machine/Ports.lean ====
section
/-! DEFINITION. Which presented event fires (R31, R34, R160) and what the block does on it (R161). -/

namespace Sys2Proof.Machine

open Sys2Proof

/-- Whether the block accepts an event in a phase (R30, R160): `REQ` only in `IDLE`, `RX` only in `AWAIT`, `CLOSE` and
block reset at any time. -/
def eventReady : Phase → Event → Bool
  | .idle, .req _ => true
  | .await, .req _ => false
  | .idle, .rx _ => false
  | .await, .rx _ => true
  | _, .close => true
  | _, .reset => true

/-- R34's bound on what the receive transport delivers: a frame of at most `RX_MAX_LEN` bytes, if that is bounded. -/
def rxDeliverable (p : Params) : RxEvent → Bool
  | .frame f =>
    match p.rxMaxLen with
    | none => true
    | some n => f.length ≤ n
  | .ioerr => true

/-- The first event the block accepts, and the others in their order.  An event it does not accept stays with the host
or the transport, which deliver in order (R31, R34). -/
def takeEvent (ph : Phase) : List Event → Option (Event × List Event)
  | [] => none
  | e :: es =>
    if eventReady ph e then some (e, es)
    else
      match takeEvent ph es with
      | none => none
      | some (e', es') => some (e', e :: es')

/-- A request taken from `REQ`: the operation it decodes to, or `IllegalOp` (R101, R162). -/
def onRequest (r : Request) (s : State) : StepOutcome :=
  match decode r with
  | .ok i => exec i s
  | .error (.illegalOp _) => .next (refuse .illegalOp s)

/-- The step function of R161, by event. -/
def fire (e : Event) (s : State) : StepOutcome :=
  match e with
  | .req r => onRequest r s
  | .rx x => onRx x s
  | .close => .next (onClose s)
  | .reset => .next (blockReset s)

/-- One step of the block: the first event it accepts fires.  With none the block waits, no register changes, and the
environment presents what `env` gives for this wait, an event or nothing (R181). -/
def stepBlock (env : Nat → Option Event) (s : State) : StepOutcome :=
  match takeEvent s.phase s.events with
  | none => .next (s.arrive (env s.arrivals))
  | some (e, rest) => fire e { s with events := rest }

/-- `s` with a request first at `REQ` and the block ready to take it. -/
def withRequest (r : Request) (s : State) : State :=
  match s.phase with
  | .idle => { s with events := .req r :: s.events }
  | .await => { s.release with events := .req r :: s.events }

end Sys2Proof.Machine
end

