-- ==== Sys2Proof/Machine/Step.lean ====
section
/-! DEFINITION. One step of the machine, and the placing of an operation where the next step takes it. -/

namespace Sys2Proof.Machine

open Sys2Proof

/-- One atomic step: one port event, or a wait, after which the environment's next event is a free value (R160, R161,
R181). -/
def step (s : State) : Host.Outcome State Fault Refusal := stepBlock Config.arrival s

/-- `s` with the request of a table word first at `REQ`, and `phase` at `IDLE`, so that the next step takes it. -/
def State.withFetchWord (s : State) (nbits w : Nat) : State := withRequest (requestOfBits nbits w) s

end Sys2Proof.Machine
end

