-- ==== Sys2Proof/Machine/Assembler.lean ====
section
/-! DEFINITION. The spelling of a field spec (R85) and the assembler's lines: host requests (R104), pseudo-instructions
(R105) and the stimulus lines of test programs, with what each line places at the block's ports.  Text is a list of
characters. -/

namespace Sys2Proof.Machine

open Sys2Proof

/-! ## Characters and numbers -/

/-- The value of a decimal digit. -/
def decimalDigit (c : Char) : Option Nat :=
  if 48 ≤ c.toNat ∧ c.toNat ≤ 57 then some (c.toNat - 48) else none

/-- The value of a hexadecimal digit, of either case. -/
def hexDigit (c : Char) : Option Nat :=
  if 97 ≤ c.toNat ∧ c.toNat ≤ 102 then some (c.toNat - 87)
  else if 65 ≤ c.toNat ∧ c.toNat ≤ 70 then some (c.toNat - 55)
  else decimalDigit c

/-- The number a list of digits spells after the digits already read as `acc`. -/
def digitsFrom (base : Nat) (digit : Char → Option Nat) : List Char → Nat → Option Nat
  | [], acc => some acc
  | c :: cs, acc =>
    match digit c with
    | some d => digitsFrom base digit cs (acc * base + d)
    | none => none

/-- A natural number: `0x` and hexadecimal digits, or decimal digits (R9, R104). -/
def parseNat : List Char → Option Nat
  | [] => none
  | '0' :: 'x' :: [] => none
  | '0' :: 'x' :: cs => digitsFrom 16 hexDigit cs 0
  | cs => digitsFrom 10 decimalDigit cs 0

/-- An integer: a natural number, or one after a minus sign. -/
def parseInt : List Char → Option Int
  | '-' :: cs => (parseNat cs).map fun n => -(n : Int)
  | cs => (parseNat cs).map fun n => (n : Int)

/-- An operand lane: an integer that fits `s32` (R80). -/
def toLane (n : Int) : Option Word32 :=
  if -2 ^ 31 ≤ n ∧ n < 2 ^ 31 then some (BitVec.ofInt 32 n) else none

/-- One byte spelled as two hexadecimal digits. -/
def parseHexByte : List Char → Option Byte
  | [h, l] =>
    match hexDigit h, hexDigit l with
    | some x, some y => some (BitVec.ofNat 8 (16 * x + y))
    | _, _ => none
  | _ => none

/-- The byte of an ASCII character (R9). -/
def charByte (c : Char) : Option Byte := if c.toNat ≤ 127 then some (BitVec.ofNat 8 c.toNat) else none

/-- `f` of every element, or nothing if one has none. -/
def collect {α β : Type} (f : α → Option β) : List α → Option (List β)
  | [] => some []
  | a :: as =>
    match f a, collect f as with
    | some b, some bs => some (b :: bs)
    | _, _ => none

/-! ## Field specs (R85) -/

/-- `n` consecutive copies of a kind, for a count of at least 1; no count means 1. -/
def kindCopies (k : FieldKind) : Option Nat → Option FieldSpec
  | none => some [k]
  | some 0 => none
  | some n => some (List.replicate n k)

/-- The fields one letter with its count spells: before `Y`, `B`, `C` and `c` the count is a number of copies, before `x`
and `s` the length of one field.  `I` is no operand letter. -/
def letterFields (c : Char) (count : Option Nat) : Option FieldSpec :=
  match c with
  | 'x' => some [.skip (count.getD 1)]
  | 's' => some [.str (count.getD 1)]
  | 'Y' => kindCopies .nib count
  | 'B' => kindCopies .byte count
  | 'C' => kindCopies .chk count
  | 'c' => kindCopies .lit count
  | _ => none

/-- The field spec a string spells, after a count already read. -/
def specFrom : List Char → Option Nat → Option FieldSpec
  | [], none => some []
  | [], some _ => none
  | c :: cs, count =>
    match decimalDigit c with
    | some d => specFrom cs (some (count.getD 0 * 10 + d))
    | none =>
      match letterFields c count, specFrom cs none with
      | some k, some ks => some (k ++ ks)
      | _, _ => none

/-- The field spec a string spells (R85). -/
def parseSpec (cs : List Char) : Option FieldSpec := specFrom cs none

/-! ## Tokens -/

/-- A token of a line. -/
inductive Token where
  | word (cs : List Char)
  | text (cs : List Char)
  | comma
  | openBracket
  | closeBracket
deriving DecidableEq, Repr

/-- The word read so far, reversed, as a token. -/
def flushWord : List Char → List Token
  | [] => []
  | cs => [.word cs.reverse]

/-- The tokens of a line.  `quoted` holds the text read so far inside double quotes, `word` the word read so far, both
reversed.  A semicolon outside quotes begins a comment; a line that ends inside quotes has no tokens. -/
def lexLine : List Char → Option (List Char) → List Char → Option (List Token)
  | [], none, word => some (flushWord word)
  | [], some _, _ => none
  | c :: cs, some quoted, word =>
    if c = '"' then (lexLine cs none word).map (Token.text quoted.reverse :: ·) else lexLine cs (some (c :: quoted)) word
  | c :: cs, none, word =>
    if c = ';' then some (flushWord word)
    else if c = '"' then (lexLine cs (some []) []).map (flushWord word ++ ·)
    else if c = ',' then (lexLine cs none []).map (flushWord word ++ .comma :: ·)
    else if c = '[' then (lexLine cs none []).map (flushWord word ++ .openBracket :: ·)
    else if c = ']' then (lexLine cs none []).map (flushWord word ++ .closeBracket :: ·)
    else if c.isWhitespace then (lexLine cs none []).map (flushWord word ++ ·)
    else lexLine cs none (c :: word)

/-! ## Operands -/

/-- Items separated by commas; no item is also a list. -/
def commaItems : List Token → Option (List Token)
  | [] => some []
  | [.comma] => none
  | t :: .comma :: ts =>
    match t, ts, commaItems ts with
    | .comma, _, _ => none
    | _, [], _ => none
    | _, _, some rest => some (t :: rest)
    | _, _, none => none
  | [t] => some [t]
  | _ => none

/-- The integer of a word token. -/
def tokenInt : Token → Option Int
  | .word cs => parseInt cs
  | _ => none

/-- A value of `PACK`: an integer, or a quoted byte string. -/
def tokenValue : Token → Option Value
  | .word cs => (parseInt cs).map Value.int
  | .text cs => (collect charByte cs).map Value.bytes
  | _ => none

/-- One hexadecimal byte of a word token. -/
def tokenHexByte : Token → Option Byte
  | .word cs => parseHexByte cs
  | _ => none

/-- The tokens of a list up to its closing bracket, which ends the line. -/
def bracketed : List Token → Option (List Token)
  | [.closeBracket] => some []
  | t :: ts => (bracketed ts).map (t :: ·)
  | [] => none

/-- The operand lanes of a line. -/
def lanes (ts : List Token) : Option (List Word32) :=
  match commaItems ts with
  | some items => (collect tokenInt items).bind (collect toLane)
  | none => none

/-! ## Lines -/

/-- What a line places at the ports: a request, a stimulus of the environment, or nothing. -/
inductive Line where
  | blank
  | event (e : Event)
  /-- `TX ok|timeout|ioerr`: the outcome of the next send. -/
  | tx (o : TxOutcome)
deriving DecidableEq, Repr

/-- An operation's request as a line. -/
def requestLine (i : Instr) : Line := .event (.req (encode i))

/-- A line of operands `a, v[, r]`; an omitted `r` is `REPEAT_DEFAULT` (R104). -/
def wordLine (f : Word32 → Word32 → Word32 → Instr) (ts : List Token) : Option Line :=
  match lanes ts with
  | some [a, v] => some (requestLine (f a v (BitVec.ofInt 32 repeatDefault)))
  | some [a, v, r] => some (requestLine (f a v r))
  | _ => none

/-- A line of the one operand `v`. -/
def valueLine (f : Word32 → Instr) (ts : List Token) : Option Line :=
  match lanes ts with
  | some [v] => some (requestLine (f v))
  | _ => none

/-- A line with no operands. -/
def bareLine (i : Instr) (ts : List Token) : Option Line :=
  match ts with
  | [] => some (requestLine i)
  | _ => none

/-- `PACK "spec", [vals]`. -/
def packLine : List Token → Option Line
  | .text cs :: .comma :: .openBracket :: ts =>
    match parseSpec cs, (bracketed ts).bind commaItems with
    | some spec, some items => (collect tokenValue items).map fun vals => requestLine (.pack spec vals)
    | _, _ => none
  | _ => none

/-- `UNPACK "spec", [hex bytes]`. -/
def unpackLine : List Token → Option Line
  | .text cs :: .comma :: .openBracket :: ts =>
    match parseSpec cs, (bracketed ts).bind (collect tokenHexByte) with
    | some spec, some buf => some (requestLine (.unpack spec buf))
    | _, _ => none
  | _ => none

/-- `RX hex…`, `RX timeout` or `RX ioerr`. -/
def rxLine (ts : List Token) : Option Line :=
  if ts = [.word ['t', 'i', 'm', 'e', 'o', 'u', 't']] then some (.event (.rx (.frame [])))
  else if ts = [.word ['i', 'o', 'e', 'r', 'r']] then some (.event (.rx .ioerr))
  else
    match collect tokenHexByte ts with
    | some (b :: f) => some (.event (.rx (.frame (b :: f))))
    | _ => none

/-- `TX ok`, `TX timeout` or `TX ioerr`. -/
def txLine (ts : List Token) : Option Line :=
  if ts = [.word ['o', 'k']] then some (.tx .ok)
  else if ts = [.word ['t', 'i', 'm', 'e', 'o', 'u', 't']] then some (.tx .timeout)
  else if ts = [.word ['i', 'o', 'e', 'r', 'r']] then some (.tx .ioerr)
  else none

/-- `CLOSE`. -/
def closeLine (ts : List Token) : Option Line :=
  match ts with
  | [] => some (.event .close)
  | _ => none

/-- A bare operation code, as the test programs write a request with a reserved code. -/
def codeLine (cs : List Char) (ts : List Token) : Option Line :=
  match parseNat cs, ts with
  | some n, [] =>
    if n ≤ 255 then some (.event (.req { word := BitVec.ofNat 104 n, spec := [], vals := [], buf := [] })) else none
  | _, _ => none

/-- The mnemonics of R104 and the synonyms of R105, each with what its operands spell. -/
def mnemonicTable : List (String × (List Token → Option Line)) :=
  [("SETSPEED", wordLine .setspeed), ("SETBRAKE", wordLine .setbrake), ("SETFUEL", wordLine .setfuel),
   ("SETPOS", wordLine .setpos), ("SETWORD.SPEED", wordLine .setspeed), ("SETWORD.BRAKE", wordLine .setbrake),
   ("SETWORD.FUEL", wordLine .setfuel), ("SETWORD.POS", wordLine .setpos),
   ("SETLAP", valueLine .setlap), ("IGNORE", valueLine .ignore),
   ("CLRPOS", bareLine .clrpos), ("RESET", bareLine .reset), ("VERSION", bareLine .version),
   ("REQUEST", bareLine .request), ("PRESS_PACE_CAR", bareLine .pressPaceCar), ("PRESS_START", bareLine .pressStart),
   ("START", bareLine .pressStart), ("PRESS_SPEED", bareLine .pressSpeed), ("PRESS_BRAKE", bareLine .pressBrake),
   ("PRESS_FUEL", bareLine .pressFuel), ("PRESS_CODE", bareLine .pressCode),
   ("PACK", packLine), ("UNPACK", unpackLine), ("RX", rxLine), ("TX", txLine), ("CLOSE", closeLine)]

/-- The entry of a name in the mnemonic table. -/
def findMnemonic (cs : List Char) : List (String × (List Token → Option Line)) → Option (List Token → Option Line)
  | [] => none
  | (name, f) :: rest => if name.toList = cs then some f else findMnemonic cs rest

/-- A line of the assembler's language, if the text is one. -/
def parseLine (text : List Char) : Option Line :=
  match lexLine text none [] with
  | some [] => some .blank
  | some (.word cs :: ts) =>
    match findMnemonic cs mnemonicTable with
    | some f => f ts
    | none => codeLine cs ts
  | _ => none

/-- What a line adds at the ports: an event after those presented, or an answer after those placed. -/
def applyLine (l : Line) (s : State) : State :=
  match l with
  | .blank => s
  | .event e => { s with events := s.events ++ [e] }
  | .tx o => { s with txAnswers := s.txAnswers ++ [o] }

end Sys2Proof.Machine
end

