-- ==== Sys2Proof/Machine/Flags.lean ====
section
/-! DEFINITION. The block has no status flags and no condition codes (R28).  The only flags the spec names are the CU's
mode bits, data of a Status record; this file names them as a consumer may.  No rule of the block reads them.  The
assignment of names to bits is a parameter (R7, D27); the machine's own is the free value `Config.modeBits`. -/

namespace Sys2Proof.Machine

open Sys2Proof

/-- `MODE_BIT_FUEL` (D27). -/
def modeBitFuel (m : ModeBits) : Nat := if m.fuelIsBit1 then 1 else 2

/-- `MODE_BIT_REAL` (D27). -/
def modeBitReal (m : ModeBits) : Nat := if m.fuelIsBit1 then 2 else 1

/-- `MODE_BIT_PIT` (D27). -/
def modeBitPit (m : ModeBits) : Nat := if m.pitIsBit0 then 0 else 3

/-- `MODE_BIT_LAP` (D27). -/
def modeBitLap (m : ModeBits) : Nat := if m.pitIsBit0 then 3 else 0

/-- Whether a Status record's mode nibble has `FUEL_MODE` set. -/
def fuelMode (m : ModeBits) (st : Status) : Bool := st.mode.getLsbD (modeBitFuel m)

/-- Whether it has `REAL_MODE` set. -/
def realMode (m : ModeBits) (st : Status) : Bool := st.mode.getLsbD (modeBitReal m)

/-- Whether it has `PIT_LANE_MODE` set. -/
def pitLaneMode (m : ModeBits) (st : Status) : Bool := st.mode.getLsbD (modeBitPit m)

/-- Whether it has `LAP_COUNTER_MODE` set. -/
def lapCounterMode (m : ModeBits) (st : Status) : Bool := st.mode.getLsbD (modeBitLap m)

end Sys2Proof.Machine
end

