-- ==== Sys2Proof/Safety.lean ====
section
/-! DEFINITION. The terms the claims use: the register invariant, the states an operation leaves, written out field by
field, the frames of R92 and R93 written out byte by byte, and the counts of requests and responses. -/

namespace Sys2Proof.Safety

open Sys2Proof Sys2Proof.Machine

/-! ## The register invariant -/

/-- The first byte of every command frame of an operation, if it sends any (R92 to R95). -/
def commandKey (p : Params) : Opcode → Option Byte
  | .setspeed => some p.tagWord
  | .setbrake => some p.tagWord
  | .setfuel => some p.tagWord
  | .setpos => some p.tagWord
  | .clrpos => some p.tagWord
  | .setlap => some p.tagWord
  | .ignore => some p.tagIgnore
  | .reset => p.resetFrame.head?
  | .version => p.versionFrame.head?
  | .request => p.pollFrame.head?
  | .pressPaceCar => some p.tagButton
  | .pressStart => some p.tagButton
  | .pressSpeed => some p.tagButton
  | .pressBrake => some p.tagButton
  | .pressFuel => some p.tagButton
  | .pressCode => some p.tagButton
  | .pack => none
  | .unpack => none

/-- The registers in `IDLE`: nothing is held (R24 to R26). -/
abbrev idleRegisters (s : State) : Prop := s.key = none ∧ s.queue = [] ∧ s.ctx = none

/-- The registers in `AWAIT`: the transport is open, an operation is served, the key is the first byte of its frames, and
at most one frame waits, a word-write of `SETLAP` (R23 to R26, I10, I11). -/
abbrev awaitRegisters (s : State) : Prop :=
  s.closed = false ∧ s.key.isSome = true ∧ s.key = s.ctx.bind (commandKey s.params) ∧
    s.queue.length ≤ 1 ∧ (∀ g ∈ s.queue, g.head? = some s.params.tagWord) ∧ (s.queue ≠ [] → s.ctx = some .setlap)

/-- The invariant of the registers, in either phase, of a block whose parameters meet their constraints (R8). -/
abbrev Inv (s : State) : Prop :=
  s.params.valid = true ∧ (s.phase = .idle → idleRegisters s) ∧ (s.phase = .await → awaitRegisters s)

/-- A state from which the next step answers a next state. -/
def Steps (s : State) : Prop := ∃ t, step s = .next t

/-! ## The states an operation leaves -/

/-- The state after an accepted operation `op` sent `f` successfully, with `rest` still to send (R162 to R164). -/
def afterSend (s : State) (op : Opcode) (f : Frame) (rest : List Frame) : State :=
  { s with
    phase := .await
    key := f.head?
    queue := rest
    ctx := some op
    discards := 0
    txAnswers := s.txAnswers.tail
    sends := s.sends + 1
    out := s.out ++ [.tx f .ok f] }

/-- The state after a request that ended at once with the response `r`: only `discards` is written (R162). -/
def afterAnswer (s : State) (r : Response) : State := { s with discards := 0, out := s.out ++ [.rsp r] }

/-- The state after an accepted operation whose first send, of `f`, failed with outcome `o` (R164, R165). -/
def afterFailedSend (s : State) (f : Frame) (o : TxOutcome) (code : Byte) : State :=
  { s with
    phase := .idle
    key := none
    queue := []
    ctx := none
    discards := 0
    txAnswers := s.txAnswers.tail
    sends := s.sends + 1
    out := s.out ++ [.tx f o (f.take (Config.sentPrefix s.sends)), .rsp (.err code)] }

/-- The state after an exchange that ended with the response `r` (R165): `discards` keeps its value. -/
def afterEnd (s : State) (r : Response) : State :=
  { s with phase := .idle, key := none, queue := [], ctx := none, out := s.out ++ [.rsp r] }

/-! ## Frames written out -/

/-- The wire byte of a nibble, `NIB_BASE + v` (R82). -/
def wireByte (p : Params) (v : Nat) : Byte := BitVec.ofNat 8 (p.nibBase.toNat + v)

/-- The six bytes of a word-write (R92): the tag, the word/address byte `32 * addr + word` low nibble first, the value,
the repeat count, and the sum of the five bytes' values mod 16. -/
def wordWriteBytes (p : Params) (word addr v r : Nat) : Frame :=
  let w := 32 * addr + word
  [p.tagWord, wireByte p (w % 16), wireByte p (w / 16), wireByte p v, wireByte p r,
    wireByte p ((p.tagWord.toNat + w % 16 + w / 16 + v + r) % 16)]

/-- The four bytes of an ignore-controller command (R93). -/
def ignoreBytes (p : Params) (mask : Nat) : Frame :=
  [p.tagIgnore, wireByte p (mask % 16), wireByte p (mask / 16),
    wireByte p ((p.tagIgnore.toNat + mask % 16 + mask / 16) % 16)]

/-- The two bytes of a button press (R95). -/
def buttonBytes (p : Params) (id : Nat) : Frame := [p.tagButton, wireByte p id]

/-- The frame `CLRPOS` sends (R210). -/
def clearPositionBytes (p : Params) : Frame :=
  wordWriteBytes p p.wPos p.clrposAddr p.clrposValue.toNat p.clrposRepeat.toNat

/-- The fixed operands of `CLRPOS` and `SETLAP` fit the fields they are packed into: three bits of address (R90) and a
nibble of value and of repeat count (R92).  R8 does not list this; a configuration without it gets a `FormatError` from
`pack` for them (R123). -/
def fixedOperandsFit (p : Params) : Bool :=
  p.lapAddr ≤ 7 && p.clrposAddr ≤ 7 && 0 ≤ p.clrposValue && p.clrposValue ≤ 15 && 0 ≤ p.clrposRepeat &&
    p.clrposRepeat ≤ 15

/-- The Status record of a frame, each field from its offset in R96's table. -/
def statusOfBytes (f : Frame) : Status :=
  { fuel := Vector.ofFn fun i => BitVec.ofNat 4 (wireVal (byteAt f (2 + i.val)))
    start := BitVec.ofNat 4 (wireVal (byteAt f 10))
    mode := BitVec.ofNat 4 (wireVal (byteAt f 11))
    pit := Vector.ofFn fun i => (wireVal (byteAt f 12) + 16 * wireVal (byteAt f 13)).testBit i.val
    display := BitVec.ofNat 4 (wireVal (byteAt f 14)) }

/-- The Timer record of a frame with `lead` bytes before the address, each field from its place in R98's table, the
timestamp's nibbles in the order of R64. -/
def timerOfBytes (lead : Nat) (f : Frame) : Timer :=
  let n := fun k => wireVal (byteAt f (lead + k))
  { address := (n 0 : Int) - 1
    timestamp := BitVec.ofNat 32 ((n 1 + 16 * n 2) * 2 ^ 24 + (n 3 + 16 * n 4) * 2 ^ 16 + (n 5 + 16 * n 6) * 2 ^ 8 +
      (n 7 + 16 * n 8))
    sector := BitVec.ofNat 4 (n 9) }

/-- Whether an operand lane is in a range. -/
def inRange (w : Word32) (lo hi : Int) : Bool := lo ≤ w.toInt && w.toInt ≤ hi

/-- The first frame a word-write operation sends, if its operands are in range (R200, R201). -/
def wordFrame (p : Params) (word : Nat) (a v r : Word32) (lo hi : Int) : Option Frame :=
  if inRange a 0 7 && inRange v lo hi && inRange r 0 15 then some (wordWriteBytes p word a.toNat v.toNat r.toNat)
  else none

/-- The first frame an operation sends, for every operation and operand that sends one (R206 to R221). -/
def firstFrame (p : Params) : Instr → Option Frame
  | .setspeed a v r => wordFrame p p.wSpeed a v r 0 15
  | .setbrake a v r => wordFrame p p.wBrake a v r 0 15
  | .setfuel a v r => wordFrame p p.wFuel a v r 0 15
  | .setpos a v r => wordFrame p p.wPos a v r 1 8
  | .clrpos => some (clearPositionBytes p)
  | .setlap v => if inRange v 0 255 then some (wordWriteBytes p p.wLapHi p.lapAddr (v.toNat / 16) 1) else none
  | .ignore v => if inRange v 0 255 then some (ignoreBytes p v.toNat) else none
  | .reset => some p.resetFrame
  | .version => some p.versionFrame
  | .request => some p.pollFrame
  | .pressPaceCar => some (buttonBytes p p.btnPaceCar)
  | .pressStart => some (buttonBytes p p.btnStart)
  | .pressSpeed => some (buttonBytes p p.btnSpeed)
  | .pressBrake => some (buttonBytes p p.btnBrake)
  | .pressFuel => some (buttonBytes p p.btnFuel)
  | .pressCode => some (buttonBytes p p.btnCode)
  | .pack _ _ => none
  | .unpack _ _ => none

/-! ## What validation refuses -/

/-- R242's table: the operations and operands for which `ValidationError` is raised. -/
def failsValidation : Instr → Prop
  | .setspeed a v _ => ¬(0 ≤ a.toInt ∧ a.toInt ≤ 7) ∨ ¬(0 ≤ v.toInt ∧ v.toInt ≤ 15)
  | .setbrake a v _ => ¬(0 ≤ a.toInt ∧ a.toInt ≤ 7) ∨ ¬(0 ≤ v.toInt ∧ v.toInt ≤ 15)
  | .setfuel a v _ => ¬(0 ≤ a.toInt ∧ a.toInt ≤ 7) ∨ ¬(0 ≤ v.toInt ∧ v.toInt ≤ 15)
  | .setpos a v _ => ¬(0 ≤ a.toInt ∧ a.toInt ≤ 7) ∨ ¬(1 ≤ v.toInt ∧ v.toInt ≤ 8)
  | .setlap v => ¬(0 ≤ v.toInt ∧ v.toInt ≤ 255)
  | _ => False

/-- R243(a) to (c), and (d) for `UNPACK`: the operations and operands for which `FormatError` is raised before any send. -/
def failsFormat : Instr → Prop
  | .setspeed a v r => ¬failsValidation (.setspeed a v r) ∧ ¬(0 ≤ r.toInt ∧ r.toInt ≤ 15)
  | .setbrake a v r => ¬failsValidation (.setbrake a v r) ∧ ¬(0 ≤ r.toInt ∧ r.toInt ≤ 15)
  | .setfuel a v r => ¬failsValidation (.setfuel a v r) ∧ ¬(0 ≤ r.toInt ∧ r.toInt ≤ 15)
  | .setpos a v r => ¬failsValidation (.setpos a v r) ∧ ¬(0 ≤ r.toInt ∧ r.toInt ≤ 15)
  | .ignore v => ¬(0 ≤ v.toInt ∧ v.toInt ≤ 255)
  | .pack spec vals => specWellFormed spec = false ∨ vals.length ≠ arity spec ∨ valuesFit spec vals = false
  | .unpack spec buf => specWellFormed spec = false ∨ buf.length < wireLength spec
  | _ => False

/-- The codes of R80's table; every other value of `op` is reserved. -/
def tableCodes : List Byte :=
  [0x01, 0x02, 0x03, 0x04, 0x05, 0x06, 0x07, 0x08, 0x09, 0x0A, 0x10, 0x11, 0x12, 0x13, 0x14, 0x15, 0x20, 0x21]

/-! ## Environments -/

/-- The machine in an environment that presents the events of `env`, one for each wait, when those already presented are
used up.  `Sys2Proof.core` is the machine in the environment of which nothing is known, `Config.arrival`. -/
abbrev coreIn (env : Nat → Option Event) : Host.Core :=
  { State := State
    Fault := Fault
    Refusal := Refusal
    step := stepBlock env
    reset := State.reset }

/-! ## Counts -/

/-- Whether an event is a request. -/
def isRequest : Event → Bool
  | .req _ => true
  | _ => false

/-- Whether an emitted event is a response. -/
def isResponse : PortEvent → Bool
  | .rsp _ => true
  | _ => false

/-- Whether an emitted event is a discard. -/
def isDiscard : PortEvent → Bool
  | .diag _ => true
  | _ => false

/-- The events the environment presents in the step at `s`: its next one, if the block finds none it accepts. -/
def newEvents (s : State) : List Event :=
  match takeEvent s.phase s.events with
  | none => (Config.arrival s.arrivals).toList
  | some _ => []

/-- Requests presented and not yet accepted, the operation in flight, and responses emitted, added up. -/
def requestBalance (s : State) : Nat :=
  s.events.countP isRequest + (if s.phase = .await then 1 else 0) + s.out.countP isResponse

end Sys2Proof.Safety
end

