-- ==== Sys2Proof/Certificates/Slice0/Obligations.lean ====
section
/-! DEFINITION. The statements about the block, for the provers. -/

open Sys2Proof Sys2Proof.Machine Sys2Proof.Safety

/-! ## Request encoding -/

/-- The decoder reads every operation back from its encoding, with every operand at every value. -/
def Obligations.DecodeOfEncodeIsTheOperation : Prop := ∀ i : Instr, decode (encode i) = .ok i

/-- R80: an operand lane an operation does not use is ignored, whatever its value. -/
def Obligations.UnusedOperandLanesAreIgnored : Prop :=
  ∀ (a v r a' r' : Word32),
    (∀ op ∈ [Opcode.clrpos, .reset, .version, .request, .pressPaceCar, .pressStart, .pressSpeed, .pressBrake, .pressFuel,
        .pressCode, .pack, .unpack],
      ∀ v' : Word32, decode (wordRequest op a v r) = decode (wordRequest op a' v' r')) ∧
    (∀ op ∈ [Opcode.setlap, .ignore], decode (wordRequest op a v r) = decode (wordRequest op a' v r'))

/-- R80, R101: the decoder takes exactly the codes of the table. -/
def Obligations.OnlyTableCodesAreOperations : Prop :=
  ∀ b : Byte, (opcodeOfByte b).isSome = true ↔ b ∈ tableCodes

/-- A few request words written out from R80's bit positions decode to their operations. -/
def Obligations.WrittenOutWordsDecode : Prop :=
  decodeTableWord 104 0x00000001_00000008_00000000_01 = some (.setspeed 0 8 1) ∧
  decodeTableWord 104 0x00000001_00000000_FFFFFFFF_01 = some (.setspeed (-1) 0 1) ∧
  decodeTableWord 104 0x00000010_00000000_00000000_03 = some (.setfuel 0 0 16) ∧
  decodeTableWord 104 0x00000000_0000002A_00000000_06 = some (.setlap 42) ∧
  decodeTableWord 104 0x00000000_0000012C_00000000_07 = some (.ignore 300) ∧
  decodeTableWord 8 0x11 = some .pressStart ∧
  decodeTableWord 8 0x20 = some (.pack [] []) ∧
  decodeTableWord 8 0x0B = none

/-- R101: a request with a reserved operation code is taken, sends nothing, and is answered `ERR(6)`, leaving every register
but `discards` unchanged. -/
def Obligations.ReservedCodeIsAnsweredIllegalOp : Prop :=
  ∀ (s : State) (r : Request) (rest : List Event),
    s.phase = .idle → takeEvent .idle s.events = some (.req r, rest) → r.op ∉ tableCodes →
      step s = .next { s with events := rest, discards := 0, out := s.out ++ [.rsp (.err 6)] }

/-- R104: request lines assemble to the request words the spec lists for them; how a line is read where R104 is silent is
THE MODEL'S CHOICE (log entry 14), and these lines do not depend on it. -/
def Obligations.AssembledLinesAreTheListedWords : Prop :=
  parseLine "SETSPEED 1, 15".toList =
    some (.event (.req { word := 0x00000001_0000000F_00000001_01#104, spec := [], vals := [], buf := [] })) ∧
  parseLine "SETSPEED -1, 0".toList =
    some (.event (.req { word := 0x00000001_00000000_FFFFFFFF_01#104, spec := [], vals := [], buf := [] })) ∧
  parseLine "SETPOS 0, 9".toList =
    some (.event (.req { word := 0x00000001_00000009_00000000_04#104, spec := [], vals := [], buf := [] })) ∧
  parseLine "START".toList =
    some (.event (.req { word := 0x00000000_00000000_00000000_11#104, spec := [], vals := [], buf := [] }))

/-- R85: the spelled formats of R92, R93, R96 and R97 are the formats the block uses. -/
def Obligations.SpelledFormatsAreTheFormats : Prop :=
  parseSpec "cBYYC".toList = some wordWriteFmt ∧ parseSpec "cBC".toList = some ignoreFmt ∧
  parseSpec "2x8YYYBYC".toList = some statusFmt ∧ parseSpec "2x8YYYBY2xC".toList = some statusFmtX ∧
  parseSpec "xYBBBBYC".toList = some (timerFmt cu) ∧ parseSpec "x4sC".toList = some (versionFmt cu)

/-! ## Parameters -/

/-- R7, R8: the default parameter values meet the constraints (a) to (d) and those of log entries 15 and 22, and the
reset state is the block built with them. -/
def Obligations.DefaultParametersAreValid : Prop := cu.valid = true ∧ State.configure cu = some State.reset

/-- R8, R273: a block is built exactly with the parameters that meet the constraints, and starts at reset with them.  That
the poll frame's first byte is one of the constraints is DEDUCED from R7 and R215 (log entry 22). -/
def Obligations.BlockIsBuiltWithValidParameters : Prop :=
  ∀ (p : Params) (s : State),
    State.configure p = some s ↔ p.valid = true ∧ s = { State.reset with params := p }

/-- R29: a step writes no parameter. -/
def Obligations.ParametersStayFixed : Prop := ∀ s t : State, step s = .next t → t.params = s.params

/-- D27: the mode-bit names are a permutation of 0..3 with `FUEL` and `REAL` on bits 1 and 2. -/
def Obligations.ModeBitNamesMeetTheirConstraint : Prop :=
  ∀ m : ModeBits,
    List.Perm [modeBitFuel m, modeBitReal m, modeBitPit m, modeBitLap m] [0, 1, 2, 3] ∧
    List.Perm [modeBitFuel m, modeBitReal m] [1, 2]

/-! ## Codec -/

/-- R83: an alphabet byte's value is the nibble it carries. -/
def Obligations.AlphabetByteCarriesItsNibble : Prop :=
  ∀ p : Params, p.alphabetOk = true → ∀ v : Nat, v < 16 → wireVal (nib p v) = v

/-- R122: the checksum is the byte sum mod 16, re-encoded. -/
def Obligations.ChecksumIsTheByteSumMod16 : Prop :=
  ∀ (p : Params) (bs : Frame), checksumByte p bs = nib p ((bs.map BitVec.toNat).sum % 16)

/-- R123: the order of `pack`'s checks, and the length of what it packs. -/
def Obligations.PackChecksInOrder : Prop :=
  ∀ (p : Params) (spec : FieldSpec) (vals : List Value),
    (specWellFormed spec = false → pack p spec vals = .error (.format .malformedSpec)) ∧
    (specWellFormed spec = true → vals.length ≠ arity spec → pack p spec vals = .error (.format .countMismatch)) ∧
    (specWellFormed spec = true → vals.length = arity spec → valuesFit spec vals = false →
      pack p spec vals = .error (.format .range)) ∧
    (specWellFormed spec = true → vals.length = arity spec → valuesFit spec vals = true →
      ∃ f, pack p spec vals = .ok f ∧ f.length = wireLength spec)

/-- R134: the error order of `unpack`; it answers one value per value-taking kind, or the first error. -/
def Obligations.UnpackReportsTheFirstError : Prop :=
  ∀ (p : Params) (spec : FieldSpec) (buf : Frame),
    (specWellFormed spec = false → unpack p spec buf = .error (.format .malformedSpec)) ∧
    (specWellFormed spec = true → buf.length < wireLength spec → unpack p spec buf = .error (.format .short)) ∧
    (specWellFormed spec = true → wireLength spec ≤ buf.length →
      (∃ vs, unpack p spec buf = .ok vs ∧ vs.length = arity spec ∧
        ∀ k ∈ checksumOffsets spec 0, byteAt buf k = checksumByte p (buf.take k)) ∨
      (∃ k ∈ checksumOffsets spec 0, unpack p spec buf = .error (.checksum k) ∧
        byteAt buf k ≠ checksumByte p (buf.take k) ∧
        ∀ j ∈ checksumOffsets spec 0, j < k → byteAt buf j = checksumByte p (buf.take j)))

/-- R136: what `pack` accepts, `unpack` gives back. -/
def Obligations.UnpackOfPackGivesTheValues : Prop :=
  ∀ p : Params, p.alphabetOk = true → ∀ (spec : FieldSpec) (vals : List Value) (f : Frame),
    pack p spec vals = .ok f → unpack p spec f = .ok vals

/-- R137, first case: a change of a byte's value before a checksum is detected. -/
def Obligations.ChangedNibbleIsDetected : Prop :=
  ∀ p : Params, p.alphabetOk = true → ∀ (spec : FieldSpec) (vals : List Value) (f : Frame) (i j : Nat) (b : Byte),
    pack p spec vals = .ok f → j ∈ checksumOffsets spec 0 → i < j → i ∉ checksumOffsets spec 0 →
    wireVal b ≠ wireVal (byteAt f i) → ∃ k, unpack p spec (f.set i b) = .error (.checksum k)

/-- R137, second case: a change confined to bits 7..4 of a byte that is no checksum passes every checksum; in a spec with no
literal and no string field it changes no value either. -/
def Obligations.ChangedHighBitsPassUndetected : Prop :=
  ∀ p : Params, p.alphabetOk = true → ∀ (spec : FieldSpec) (vals : List Value) (f : Frame) (i : Nat) (b : Byte),
    pack p spec vals = .ok f → i ∉ checksumOffsets spec 0 → wireVal b = wireVal (byteAt f i) →
    (∃ vs, unpack p spec (f.set i b) = .ok vs) ∧
    ((∀ kind ∈ spec, kind ≠ .lit ∧ ∀ n, kind ≠ .str n) → unpack p spec (f.set i b) = .ok vals)

/-- R133: bytes beyond the format's length are neither decoded nor summed. -/
def Obligations.TrailingBytesAreIgnored : Prop :=
  ∀ (p : Params) (spec : FieldSpec) (buf extra : Frame), wireLength spec ≤ buf.length →
    unpack p spec (buf ++ extra) = unpack p spec buf

/-- R127: the corner cases of `pack` with the default parameters. -/
def Obligations.PackCornerCases : Prop :=
  pack cu [] [] = .ok [] ∧
  pack cu [.skip 3, .chk] [] = .ok [0x30, 0x30, 0x30, 0x30] ∧
  pack cu [.chk] [] = .ok [0x30] ∧
  pack cu [.lit, .chk, .chk] [.int 0x41] = .ok [0x41, 0x31, 0x32] ∧
  (∀ v ∈ [(16 : Int), -1], pack cu [.nib] [.int v] = .error (.format .range)) ∧
  (∀ v ∈ [(256 : Int), -1], pack cu [.byte] [.int v] = .error (.format .range) ∧
    pack cu [.lit] [.int v] = .error (.format .range)) ∧
  pack cu [.nib, .nib] [.int 1] = .error (.format .countMismatch) ∧
  pack cu [.nib] [.int 1, .int 2] = .error (.format .countMismatch)

/-! ## What each operation does when it completes -/

/-- R206 to R208: `SETSPEED`, `SETBRAKE` and `SETFUEL` with operands in range send one word-write and await its reply,
in every valid configuration. -/
def Obligations.SpeedBrakeAndFuelWritesAreSent : Prop :=
  ∀ (a v r : Word32) (s : State), s.params.valid = true → s.phase = .idle → txOutcome s = .ok →
    0 ≤ a.toInt → a.toInt ≤ 7 → 0 ≤ v.toInt → v.toInt ≤ 15 → 0 ≤ r.toInt → r.toInt ≤ 15 →
    exec (.setspeed a v r) s =
      .next (afterSend s .setspeed (wordWriteBytes s.params s.params.wSpeed a.toNat v.toNat r.toNat) []) ∧
    exec (.setbrake a v r) s =
      .next (afterSend s .setbrake (wordWriteBytes s.params s.params.wBrake a.toNat v.toNat r.toNat) []) ∧
    exec (.setfuel a v r) s =
      .next (afterSend s .setfuel (wordWriteBytes s.params s.params.wFuel a.toNat v.toNat r.toNat) [])

/-- R209: `SETPOS` with operands in range sends the position as given, 1..8, in every valid configuration. -/
def Obligations.PositionWriteIsSent : Prop :=
  ∀ (a v r : Word32) (s : State), s.params.valid = true → s.phase = .idle → txOutcome s = .ok →
    0 ≤ a.toInt → a.toInt ≤ 7 → 1 ≤ v.toInt → v.toInt ≤ 8 → 0 ≤ r.toInt → r.toInt ≤ 15 →
    exec (.setpos a v r) s =
      .next (afterSend s .setpos (wordWriteBytes s.params s.params.wPos a.toNat v.toNat r.toNat) [])

/-- R210: `CLRPOS` sends the position word-write with the fixed address, value and repeat count of the configuration; with
the default parameters they are 0, 0 and 9. -/
def Obligations.ClearPositionIsSent : Prop :=
  ∀ s : State, s.phase = .idle → txOutcome s = .ok →
    (s.params.valid = true → fixedOperandsFit s.params = true →
      exec .clrpos s = .next (afterSend s .clrpos (clearPositionBytes s.params) [])) ∧
    (s.params = cu → exec .clrpos s = .next (afterSend s .clrpos [0x4A, 0x36, 0x30, 0x30, 0x39, 0x39] []))

/-- R211: `SETLAP` in range sends the high-nibble word-write and holds the low-nibble one in `queue`, in every valid
configuration whose lap address fits. -/
def Obligations.LapHighNibbleIsSentFirst : Prop :=
  ∀ (v : Word32) (s : State), s.params.valid = true → fixedOperandsFit s.params = true → s.phase = .idle →
    txOutcome s = .ok → 0 ≤ v.toInt → v.toInt ≤ 255 →
    exec (.setlap v) s =
      .next (afterSend s .setlap (wordWriteBytes s.params s.params.wLapHi s.params.lapAddr (v.toNat / 16) 1)
        [wordWriteBytes s.params s.params.wLapLo s.params.lapAddr (v.toNat % 16) 1])

/-- R212: `IGNORE` in range sends the ignore-controller frame of its mask, in every valid configuration. -/
def Obligations.IgnoreMaskIsSent : Prop :=
  ∀ (v : Word32) (s : State), s.params.valid = true → s.phase = .idle → txOutcome s = .ok → 0 ≤ v.toInt →
    v.toInt ≤ 255 → exec (.ignore v) s = .next (afterSend s .ignore (ignoreBytes s.params v.toNat) [])

/-- R213 to R215: `RESET`, `VERSION` and `REQUEST` send their fixed frames, in every configuration; with the default
parameters they are `=10`, `0` and `?`. -/
def Obligations.ResetVersionAndPollAreSent : Prop :=
  ∀ s : State, s.phase = .idle → txOutcome s = .ok →
    exec .reset s = .next (afterSend s .reset s.params.resetFrame []) ∧
    exec .version s = .next (afterSend s .version s.params.versionFrame []) ∧
    exec .request s = .next (afterSend s .request s.params.pollFrame []) ∧
    (s.params = cu →
      s.params.resetFrame = [0x3D, 0x31, 0x30] ∧ s.params.versionFrame = [0x30] ∧ s.params.pollFrame = [0x3F])

/-- R216 to R221: each button press sends its two-byte frame, in every configuration; with the default parameters they are
`T1`, `T2`, `T5`, `T6`, `T7` and `T8`. -/
def Obligations.ButtonPressesAreSent : Prop :=
  ∀ s : State, s.phase = .idle → txOutcome s = .ok →
    exec .pressPaceCar s = .next (afterSend s .pressPaceCar (buttonBytes s.params s.params.btnPaceCar) []) ∧
    exec .pressStart s = .next (afterSend s .pressStart (buttonBytes s.params s.params.btnStart) []) ∧
    exec .pressSpeed s = .next (afterSend s .pressSpeed (buttonBytes s.params s.params.btnSpeed) []) ∧
    exec .pressBrake s = .next (afterSend s .pressBrake (buttonBytes s.params s.params.btnBrake) []) ∧
    exec .pressFuel s = .next (afterSend s .pressFuel (buttonBytes s.params s.params.btnFuel) []) ∧
    exec .pressCode s = .next (afterSend s .pressCode (buttonBytes s.params s.params.btnCode) []) ∧
    (s.params = cu →
      [cu.btnPaceCar, cu.btnStart, cu.btnSpeed, cu.btnBrake, cu.btnFuel, cu.btnCode].map (buttonBytes s.params) =
        [[0x54, 0x31], [0x54, 0x32], [0x54, 0x35], [0x54, 0x36], [0x54, 0x37], [0x54, 0x38]])

/-- R222: `PACK` of fitting values answers the packed frame at once, transport closed or not, and sends nothing. -/
def Obligations.PackIsAnsweredAtOnce : Prop :=
  ∀ (spec : FieldSpec) (vals : List Value) (s : State), s.phase = .idle → specWellFormed spec = true →
    vals.length = arity spec → valuesFit spec vals = true →
    ∃ f, f.length = wireLength spec ∧ pack s.params spec vals = .ok f ∧
      exec (.pack spec vals) s = .next (afterAnswer s (.ok (.packed f)))

/-- R223: `UNPACK` of a long enough frame whose checksum bytes agree answers its values at once; where one differs it
answers `ERR(3)`. -/
def Obligations.UnpackIsAnsweredAtOnce : Prop :=
  ∀ (spec : FieldSpec) (buf : Frame) (s : State), s.phase = .idle → specWellFormed spec = true →
    wireLength spec ≤ buf.length →
    ((∀ k ∈ checksumOffsets spec 0, byteAt buf k = checksumByte s.params (buf.take k)) →
      ∃ vs, vs.length = arity spec ∧ unpack s.params spec buf = .ok vs ∧
        exec (.unpack spec buf) s = .next (afterAnswer s (.ok (.unpacked vs)))) ∧
    ((∃ k ∈ checksumOffsets spec 0, byteAt buf k ≠ checksumByte s.params (buf.take k)) →
      exec (.unpack spec buf) s = .next (afterAnswer s (.err 3)))

/-! ## Refusals and failed sends -/

/-- R242: `ValidationError` is the answer for exactly the listed operations and operands. -/
def Obligations.ValidationErrorCauses : Prop :=
  ∀ (i : Instr) (s : State), s.phase = .idle →
    (exec i s = .next (afterAnswer s (.err 1)) ↔ failsValidation i)

/-- R243(a) to (c): `FormatError` is the answer, with nothing sent, for exactly the listed operations and operands, in
every valid configuration whose own fixed operands fit. -/
def Obligations.FormatErrorCausesBeforeSending : Prop :=
  ∀ (i : Instr) (s : State), s.params.valid = true → fixedOperandsFit s.params = true → s.phase = .idle →
    (exec i s = .next (afterAnswer s (.err 2)) ↔ failsFormat i)

/-- R204: an operation that answers a `ValidationError` or a `FormatError` has put nothing on `TX`. -/
def Obligations.NothingIsSentOnARefusedRequest : Prop :=
  ∀ (i : Instr) (s t : State) (c : Byte), s.phase = .idle → exec i s = .next t →
    t.out.getLast? = some (.rsp (.err c)) → c ∈ [(1 : Byte), 2] →
    t = afterAnswer s (.err c)

/-- R164, R245, R246: an operation whose first send fails, with whatever operands it has in range, ends with the
transport's error: `ERR(4)` or `ERR(5)`.  That a send uses up a placed answer, the free prefix on the line and the record
of the ports are THE MODEL'S CHOICE (log entries 2, 3 and 5). -/
def Obligations.FailedSendEndsTheOperation : Prop :=
  ∀ (i : Instr) (f : Frame) (s : State), s.params.valid = true → fixedOperandsFit s.params = true →
    s.phase = .idle → firstFrame s.params i = some f →
    (txOutcome s = .timeout → exec i s = .next (afterFailedSend s f .timeout 4)) ∧
    (txOutcome s = .ioerr → exec i s = .next (afterFailedSend s f .ioerr 5))

/-- R33, R164: sending one frame, by the outcome of the send; a closed transport gives `TX_IOERR`.  That a send uses up a
placed answer, also where a closed transport forces `TX_IOERR`, the free prefix on the line and the record of the ports
are THE MODEL'S CHOICE (log entries 2, 3 and 5). -/
def Obligations.SendFollowsItsOutcome : Prop :=
  ∀ (f : Frame) (rest : List Frame) (s : State),
    (s.closed = true → txOutcome s = .ioerr) ∧
    (txOutcome s = .ok →
      send f rest s =
        { s with phase := .await, key := f.head?, queue := rest, txAnswers := s.txAnswers.tail, sends := s.sends + 1,
                 out := s.out ++ [.tx f .ok f] }) ∧
    (txOutcome s = .timeout →
      ∃ n, send f rest s =
        { s with phase := .idle, key := none, queue := [], ctx := none, txAnswers := s.txAnswers.tail,
                 sends := s.sends + 1, out := s.out ++ [.tx f .timeout (f.take n), .rsp (.err 4)] }) ∧
    (txOutcome s = .ioerr →
      ∃ n, send f rest s =
        { s with phase := .idle, key := none, queue := [], ctx := none, txAnswers := s.txAnswers.tail,
                 sends := s.sends + 1, out := s.out ++ [.tx f .ioerr (f.take n), .rsp (.err 5)] })

/-! ## The step -/

/-- When the request first in turn decodes to an operation, well-formed or not, the step runs that operation, with the
request taken. -/
def Obligations.StepRunsTheDecodedOperation : Prop :=
  ∀ (s : State) (r : Request) (rest : List Event) (i : Instr),
    s.phase = .idle → takeEvent .idle s.events = some (.req r, rest) → decode r = .ok i →
      step s = exec i { s with events := rest }

/-- THE MODEL'S CHOICE (log entry 1): the environment's free choice of R160 is the order of the list `events`, and the
event that fires is the first in it that the phase accepts; the others stay in order. -/
def Obligations.FirstAcceptedEventFires : Prop :=
  ∀ (s : State) (before after : List Event) (e : Event),
    s.events = before ++ e :: after → (∀ x ∈ before, eventReady s.phase x = false) → eventReady s.phase e = true →
      step s = fire e { s with events := before ++ after }

/-- R181: with no event the phase accepts, the block waits: no register changes, and the environment's next event, a free
value, is presented.  Both hangs are runs: in an environment that presents nothing the block waits forever, and in one
that presents non-matching frames forever it discards forever.  That a wait is a step, and each discard of the second
hang one wait and one receive event, is THE MODEL'S CHOICE (log entry 1). -/
def Obligations.BlockWaitsWithoutAnEvent : Prop :=
  (∀ s : State, (∀ x ∈ s.events, eventReady s.phase x = false) →
    step s =
      .next { s with events := s.events ++ (Config.arrival s.arrivals).toList, arrivals := s.arrivals + 1 }) ∧
  (∀ (s : State) (k : Nat), (∀ x ∈ s.events, eventReady s.phase x = false) →
    Host.Core.run (coreIn fun _ => none) k s = .next { s with arrivals := s.arrivals + k }) ∧
  (∀ (s : State) (key : Byte) (noise : Nat → Frame) (k : Nat), s.phase = .await → s.key = some key →
    (∀ x ∈ s.events, eventReady s.phase x = false) → (∀ n, ∃ b g, noise n = b :: g ∧ b ≠ key) →
    Host.Core.run (coreIn fun n => some (.rx (.frame (noise n)))) (2 * k) s =
      .next { s with
        discards := s.discards + k, arrivals := s.arrivals + k,
        out := s.out ++ (List.range k).map fun i => PortEvent.diag (noise (s.arrivals + i)) })

/-- R31: in `AWAIT` no request is taken, and every step leaves the requests with the host, after which the environment may
present more; that `exec` of an operation then leaves the state as it is is THE MODEL'S CHOICE (log entry 10). -/
def Obligations.RequestsWaitInAwait : Prop :=
  ∀ s : State, s.phase = .await →
    (∀ i : Instr, exec i s = .next s) ∧
    (∀ t : State, step s = .next t → t.events.filter isRequest = (s.events ++ newEvents s).filter isRequest)

/-! ## Receive events -/

/-- R166: the timeout indication ends the operation with `ERR(4)`. -/
def Obligations.EmptyFrameEndsWithTimeout : Prop :=
  ∀ (s : State) (rest : List Event), s.phase = .await → takeEvent .await s.events = some (.rx (.frame []), rest) →
    step s = .next (afterEnd { s with events := rest } (.err 4))

/-- R167: a receive error ends the operation with `ERR(5)`. -/
def Obligations.ReceiveErrorEndsWithIOError : Prop :=
  ∀ (s : State) (rest : List Event), s.phase = .await → takeEvent .await s.events = some (.rx .ioerr, rest) →
    step s = .next (afterEnd { s with events := rest } (.err 5))

/-- R168: a frame whose first byte differs from the key is discarded: one more in `discards`, one `DIAG` event, no other
register changed and no response. -/
def Obligations.NonMatchingFrameIsDiscarded : Prop :=
  ∀ (s : State) (b k : Byte) (f : Frame) (rest : List Event), s.phase = .await → s.key = some k → b ≠ k →
    takeEvent .await s.events = some (.rx (.frame (b :: f)), rest) →
    step s =
      .next { s with events := rest, discards := s.discards + 1, out := s.out ++ [.diag (b :: f)] }

/-- R169: a match with a frame still to send is dropped, and that frame is sent; on `TX_OK` its first byte is the key and
`ctx` is unchanged.  Under the register invariant only `SETLAP` gets here. -/
def Obligations.MatchSendsTheQueuedFrame : Prop :=
  ∀ (s : State) (k b : Byte) (f g : Frame) (rest : List Event), s.phase = .await → s.key = some k →
    s.queue = [b :: g] → takeEvent .await s.events = some (.rx (.frame (k :: f)), rest) →
    step s = .next (send (b :: g) [] { s with events := rest }) ∧
    (txOutcome s = .ok →
      step s =
        .next { s with key := some b, queue := [], events := rest, txAnswers := s.txAnswers.tail,
                       sends := s.sends + 1, out := s.out ++ [.tx (b :: g) .ok (b :: g)] }) ∧
    (Inv s → s.ctx = some .setlap)

/-- R170: a match with nothing left to send ends the operation with the decoded reply, or with the error decoding
raised. -/
def Obligations.MatchEndsWithTheDecodedReply : Prop :=
  ∀ (s : State) (k : Byte) (f : Frame) (rest : List Event), s.phase = .await → s.key = some k → s.queue = [] →
    takeEvent .await s.events = some (.rx (.frame (k :: f)), rest) →
    (∀ r, postProcess s.params s.ctx (k :: f) = .ok r → step s = .next (afterEnd { s with events := rest } (.ok r))) ∧
    (∀ e, postProcess s.params s.ctx (k :: f) = .error e →
      step s = .next (afterEnd { s with events := rest } (.err (errorNumber e))))

/-- R24, I10 and R25, I11: a frame that would read `key` while it is `NONE`, or a match that would read a queue that is too
long or holds an empty frame, stops the machine by name; R24 asks for a fault there, not a value.  No step reaches it from
lawful registers (log entry 11). -/
def Obligations.UnlawfulRegistersFault : Prop :=
  ∀ (s : State) (b : Byte) (f : Frame) (rest : List Event), s.phase = .await →
    takeEvent .await s.events = some (.rx (.frame (b :: f)), rest) →
    (s.key = none → step s = .fault .keyReadWhileNone) ∧
    (s.key = some b → (2 ≤ s.queue.length ∨ s.queue = [[]]) → step s = .fault .queueMalformed)

/-! ## Close and reset -/

/-- R171: `CLOSE` sets `closed`; in `AWAIT` it also ends the operation with `ERR(5)`, in `IDLE` nothing else changes;
repeating it changes nothing more; after it every send is answered `TX_IOERR`; `PACK` and `UNPACK` work as before, a
refused request is still reported first, and every other operation ends with `ERR(5)`.  THE MODEL'S CHOICE are: that a
forced `TX_IOERR` uses up a placed answer (log entry 2), the free prefix on the line (log entry 3), and that a refused
request writes no register but `discards` (log entry 13). -/
def Obligations.CloseReleasesTheTransport : Prop :=
  (∀ (s : State) (rest : List Event), takeEvent s.phase s.events = some (.close, rest) →
    (s.phase = .idle → step s = .next { s with events := rest, closed := true }) ∧
    (s.phase = .await → step s = .next (afterEnd { s with events := rest, closed := true } (.err 5)))) ∧
  (∀ s : State, onClose (onClose s) = onClose s) ∧
  (∀ s : State, txOutcome (onClose s) = .ioerr) ∧
  (∀ (s : State) (spec : FieldSpec) (vals : List Value) (buf : Frame), s.phase = .idle →
    (∀ r, exec (.pack spec vals) s = .next (afterAnswer s r) →
      exec (.pack spec vals) (onClose s) = .next (afterAnswer (onClose s) r)) ∧
    (∀ r, exec (.unpack spec buf) s = .next (afterAnswer s r) →
      exec (.unpack spec buf) (onClose s) = .next (afterAnswer (onClose s) r))) ∧
  (∀ (i : Instr) (s : State), s.phase = .idle → failsValidation i →
    exec i (onClose s) = .next (afterAnswer (onClose s) (.err 1))) ∧
  (∀ (i : Instr) (s : State), s.params.valid = true → fixedOperandsFit s.params = true → s.phase = .idle →
    failsFormat i → exec i (onClose s) = .next (afterAnswer (onClose s) (.err 2))) ∧
  (∀ (i : Instr) (f : Frame) (s : State), s.params.valid = true → fixedOperandsFit s.params = true →
    s.phase = .idle → firstFrame s.params i = some f →
    exec i (onClose s) = .next (afterFailedSend (onClose s) f .ioerr 5))

/-- R270: block reset, at any time, sets every register to its reset value and answers nothing.  That it is an event of the
environment's list, and that a request the host still holds, the placed answers and the record of the ports stay, is THE
MODEL'S CHOICE (log entry 6); that the parameters stay is R29's. -/
def Obligations.BlockResetClearsTheRegisters : Prop :=
  ∀ (s : State) (rest : List Event), takeEvent s.phase s.events = some (.reset, rest) →
    step s =
      .next { s with phase := .idle, closed := false, key := none, queue := [], ctx := none, discards := 0, events := rest }

/-- R40: the reset value of every register, with no event at a port. -/
def Obligations.ResetValues : Prop :=
  State.reset.phase = .idle ∧ State.reset.closed = false ∧ State.reset.key = none ∧ State.reset.queue = [] ∧
  State.reset.ctx = none ∧ State.reset.discards = 0 ∧ State.reset.events = [] ∧ State.reset.out = []

/-! ## Reply decoding -/

/-- R172: classification by the leading bytes, and the one-byte frame `[M0]`. -/
def Obligations.ClassificationByMarker : Prop :=
  ∀ p : Params,
    (∀ f : Frame, classify p (p.m0 :: p.m1 :: f) = decodeStatus p (p.m0 :: p.m1 :: f)) ∧
    (∀ (b : Byte) (f : Frame), b ≠ p.m1 → classify p (p.m0 :: b :: f) = decodeTimer p (p.m0 :: b :: f)) ∧
    (∀ (b : Byte) (f : Frame), b ≠ p.m0 → classify p (b :: f) = .ok (.raw (b :: f))) ∧
    classify p [p.m0] = decodeTimer p [p.m0] ∧
    (1 ≤ p.timerLead → classify p [p.m0] = .error (.format .short))

/-- R173 to R175: status decoding, by the frame's length and the two checksum bytes: the canonical format first, the
extended one only after its checksum error, and a checksum error reported when both fail. -/
def Obligations.StatusDecodingTable : Prop :=
  ∀ (p : Params) (f : Frame),
    (f.length < 16 → decodeStatus p f = .error (.format .short)) ∧
    (16 ≤ f.length → byteAt f 15 = checksumByte p (f.take 15) → decodeStatus p f = .ok (.status (statusOfBytes f))) ∧
    (18 ≤ f.length → byteAt f 15 ≠ checksumByte p (f.take 15) → byteAt f 17 = checksumByte p (f.take 17) →
      decodeStatus p f = .ok (.status (statusOfBytes f))) ∧
    (18 ≤ f.length → byteAt f 15 ≠ checksumByte p (f.take 15) → byteAt f 17 ≠ checksumByte p (f.take 17) →
      decodeStatus p f = .error (.checksum 17)) ∧
    (16 ≤ f.length → f.length < 18 → byteAt f 15 ≠ checksumByte p (f.take 15) →
      decodeStatus p f = .error (.checksum 15))

/-- R176: Timer decoding, with any number of lead bytes from 1 (the default, 12 bytes in all): the wire address minus one,
the timestamp and the sector, or the error of the one format. -/
def Obligations.TimerDecodingTable : Prop :=
  ∀ (p : Params) (n : Nat) (f : Frame), 1 ≤ p.timerLead → n = p.timerLead + 10 →
    (f.length < n + 1 → decodeTimer p f = .error (.format .short)) ∧
    (n + 1 ≤ f.length → byteAt f n ≠ checksumByte p (f.take n) → decodeTimer p f = .error (.checksum n)) ∧
    (n + 1 ≤ f.length → byteAt f n = checksumByte p (f.take n) →
      decodeTimer p f = .ok (.timer (timerOfBytes p.timerLead f)))

/-- R179: version decoding, with any number of lead bytes from 1 (the default, 6 bytes in all): the four identifier bytes,
or the error of the one format. -/
def Obligations.VersionDecodingTable : Prop :=
  ∀ (p : Params) (k n : Nat) (f : Frame), 1 ≤ p.versionLead → k = p.versionLead → n = k + 4 →
    (f.length < n + 1 → decodeVersion p f = .error (.format .short)) ∧
    (n + 1 ≤ f.length → byteAt f n ≠ checksumByte p (f.take n) → decodeVersion p f = .error (.checksum n)) ∧
    (n + 1 ≤ f.length → byteAt f n = checksumByte p (f.take n) →
      decodeVersion p f = .ok (.version [byteAt f k, byteAt f (k + 1), byteAt f (k + 2), byteAt f (k + 3)]))

/-- R178: what a matched reply is decoded to, by operation: a Status or Timer for `REQUEST`, an identifier for `VERSION`,
the raw reply for every other operation. -/
def Obligations.ResultKindByOperation : Prop :=
  ∀ (s : State) (f : Frame), Inv s → s.phase = .await → f.head? = s.key →
    (s.ctx = some .request →
      postProcess s.params s.ctx f = classify s.params f ∧ ∀ r, postProcess s.params s.ctx f = .ok r →
        (∃ st, r = .status st) ∨ (∃ tm, r = .timer tm)) ∧
    (s.ctx = some .version → postProcess s.params s.ctx f = decodeVersion s.params f) ∧
    (s.ctx ≠ some .request → s.ctx ≠ some .version → postProcess s.params s.ctx f = .ok (.raw f))

/-! ## The whole machine -/

/-- The registers are lawful at reset. -/
def Obligations.RegistersAreLawfulAtReset : Prop := Inv State.reset

/-- Every step keeps the registers lawful. -/
def Obligations.RegistersStayLawful : Prop := ∀ s t : State, Inv s → step s = .next t → Inv t

/-- R24, R25: from lawful registers no step faults or refuses: `key` is never read while it is `NONE`. -/
def Obligations.LawfulRegistersNeverStop : Prop := ∀ s : State, Inv s → Steps s

/-- R165: exactly one response per accepted request: a step that is no block reset conserves the number of requests
presented, in flight and answered, but for those the environment presents in it, and leaves at most one in flight. -/
def Obligations.OneResponsePerAcceptedRequest : Prop :=
  ∀ s t : State, (∀ rest, takeEvent s.phase s.events ≠ some (.reset, rest)) → step s = .next t →
    requestBalance t = requestBalance s + (newEvents s).countP isRequest

/-- R180: N non-matching frames and then a matching one: exactly N `DIAG` events, `discards` grown by exactly N, and the
decoded reply. -/
def Obligations.ResynchronisationDiscardsExactlyN : Prop :=
  ∀ (s : State) (k : Byte) (noise : List Frame) (f : Frame) (rest : List Event),
    s.phase = .await → s.key = some k → s.queue = [] →
    (∀ g ∈ noise, ∃ b g', g = b :: g' ∧ b ≠ k) →
    s.events = noise.map (fun g => Event.rx (.frame g)) ++ .rx (.frame (k :: f)) :: rest →
    Host.Core.run Sys2Proof.core (noise.length + 1) s =
      .next { s with
        phase := .idle, key := none, queue := [], ctx := none, discards := s.discards + noise.length, events := rest,
        out := s.out ++ noise.map PortEvent.diag ++
          [.rsp (match postProcess s.params s.ctx (k :: f) with | .ok r => .ok r | .error e => .err (errorNumber e))] }

/-- What was emitted stays emitted: a step only appends to `out`, the model's own record of the port events it emitted
(log entry 5). -/
def Obligations.EmittedEventsStay : Prop := ∀ s t : State, step s = .next t → ∃ new, t.out = s.out ++ new

/-- R23: `closed` is set by `CLOSE` and cleared by block reset and by nothing else. -/
def Obligations.ClosedIsSetByCloseAndClearedByReset : Prop :=
  State.reset.closed = false ∧
  ∀ (s t : State) (e : Event) (rest : List Event), takeEvent s.phase s.events = some (e, rest) → step s = .next t →
    t.closed = (match e with | .close => true | .reset => false | .req _ => s.closed | .rx _ => s.closed)

/-- R27: `discards` is 0 at reset and when a request is accepted, grows by one per discarded frame, and keeps its value
otherwise, also when the operation ends. -/
def Obligations.DiscardsCountsDiscardedFrames : Prop :=
  State.reset.discards = 0 ∧
  ∀ (s t : State) (e : Event) (rest : List Event), takeEvent s.phase s.events = some (e, rest) → step s = .next t →
    match e with
    | .req _ => t.discards = 0
    | .rx _ => t.discards + s.out.countP isDiscard = s.discards + t.out.countP isDiscard
    | .close => t.discards = s.discards
    | .reset => t.discards = 0
end

