-- ==== Sys2Proof/Laws/Codec.lean ====
section
/-! SUPPORT. What the codec's functions answer, said once, and the small lemmas of the field kinds. -/

namespace Sys2Proof.Machine

open Sys2Proof

/-! ## Specs -/

@[simp] theorem wireLength_nil : wireLength [] = 0 := rfl

@[simp] theorem wireLength_cons (k : FieldKind) (ks : FieldSpec) :
    wireLength (k :: ks) = kindWidth k + wireLength ks := rfl

@[simp] theorem specWellFormed_nil : specWellFormed [] = true := rfl

@[simp] theorem specWellFormed_cons (k : FieldKind) (ks : FieldSpec) :
    specWellFormed (k :: ks) = (k.wellFormed && specWellFormed ks) := rfl

@[simp] theorem arity_nil : arity [] = 0 := rfl

theorem arity_cons_of_value {k : FieldKind} {ks : FieldSpec} (h : takesValue k = true) :
    arity (k :: ks) = arity ks + 1 := by
  simp [arity, h]

theorem arity_cons_of_noValue {k : FieldKind} {ks : FieldSpec} (h : takesValue k = false) :
    arity (k :: ks) = arity ks := by
  simp [arity, h]

theorem valuesFit_cons_of_value {k : FieldKind} {ks : FieldSpec} {v : Value} {vs : List Value}
    (h : takesValue k = true) : valuesFit (k :: ks) (v :: vs) = (valueFits k v && valuesFit ks vs) := by
  simp [valuesFit, pairValues, List.filter_cons_of_pos h]

theorem valuesFit_cons_of_noValue {k : FieldKind} {ks : FieldSpec} {vs : List Value} (h : takesValue k = false) :
    valuesFit (k :: ks) vs = valuesFit ks vs := by
  simp [valuesFit, pairValues, h]

/-- Every checksum offset of a spec laid out from `k` lies between `k` and the spec's end. -/
theorem checksumOffsets_bounds {spec : FieldSpec} {k j : Nat} (h : j ∈ checksumOffsets spec k) :
    k ≤ j ∧ j < k + wireLength spec := by
  induction spec generalizing k with
  | nil => simp [checksumOffsets] at h
  | cons kind ks ih =>
    cases kind with
    | chk =>
      simp only [checksumOffsets, List.mem_cons] at h
      simp only [wireLength_cons, kindWidth]
      rcases h with rfl | h
      · omega
      · have := ih h
        omega
    | lit | byte | nib | str n | skip n =>
      simp only [checksumOffsets, kindWidth] at h
      have := ih h
      simp only [wireLength_cons, kindWidth]
      omega

/-! ## `pack` -/

theorem pack_of_malformed {p : Params} {spec : FieldSpec} {vals : List Value} (h : specWellFormed spec = false) :
    pack p spec vals = .error (.format .malformedSpec) := by
  simp [pack, h]

theorem pack_of_countMismatch {p : Params} {spec : FieldSpec} {vals : List Value} (hw : specWellFormed spec = true)
    (h : vals.length ≠ arity spec) : pack p spec vals = .error (.format .countMismatch) := by
  simp [pack, hw, h]

theorem pack_of_range {p : Params} {spec : FieldSpec} {vals : List Value} (hw : specWellFormed spec = true)
    (hn : vals.length = arity spec) (h : valuesFit spec vals = false) :
    pack p spec vals = .error (.format .range) := by
  simp [pack, hw, hn, h]

theorem pack_of_fit {p : Params} {spec : FieldSpec} {vals : List Value} (hw : specWellFormed spec = true)
    (hn : vals.length = arity spec) (h : valuesFit spec vals = true) :
    pack p spec vals = .ok (emitFields p spec vals []) := by
  simp [pack, hw, hn, h]

/-- What `pack` accepts, and what it then answers. -/
theorem pack_eq_ok {p : Params} {spec : FieldSpec} {vals : List Value} {f : Frame} (h : pack p spec vals = .ok f) :
    specWellFormed spec = true ∧ vals.length = arity spec ∧ valuesFit spec vals = true ∧
      f = emitFields p spec vals [] := by
  simp only [pack] at h
  split at h
  · cases h
  · split at h
    · cases h
    · split at h
      · cases h
      · cases h
        simp_all

/-- An error of `pack` is a `FormatError`. -/
theorem pack_eq_error {p : Params} {spec : FieldSpec} {vals : List Value} {e : BlockError}
    (h : pack p spec vals = .error e) : ∃ c, e = .format c := by
  simp only [pack] at h
  split at h
  · cases h; exact ⟨_, rfl⟩
  · split at h
    · cases h; exact ⟨_, rfl⟩
    · split at h
      · cases h; exact ⟨_, rfl⟩
      · cases h

/-- What is emitted for a spec comes after what was emitted before it. -/
theorem emitFields_append (p : Params) (spec : FieldSpec) (vals : List Value) (out : Frame) :
    ∃ new, emitFields p spec vals out = out ++ new := by
  induction spec generalizing vals out with
  | nil => exact ⟨[], (List.append_nil out).symm⟩
  | cons kind ks ih =>
    have step : ∀ vs bs, ∃ new, emitFields p ks vs (out ++ bs) = out ++ new := fun vs bs =>
      let ⟨new, h⟩ := ih vs (out ++ bs)
      ⟨bs ++ new, by rw [h, List.append_assoc]⟩
    cases kind with
    | chk => exact step _ _
    | skip n => exact step _ _
    | lit | byte | nib | str n =>
      cases vals with
      | nil => exact ih _ _
      | cons v vs => exact step _ _

/-! ## `unpack` -/

theorem unpack_of_malformed {p : Params} {spec : FieldSpec} {buf : Frame} (h : specWellFormed spec = false) :
    unpack p spec buf = .error (.format .malformedSpec) := by
  simp [unpack, h]

theorem unpack_of_short {p : Params} {spec : FieldSpec} {buf : Frame} (hw : specWellFormed spec = true)
    (h : buf.length < wireLength spec) : unpack p spec buf = .error (.format .short) := by
  simp [unpack, hw, h]

theorem unpack_of_long {p : Params} {spec : FieldSpec} {buf : Frame} (hw : specWellFormed spec = true)
    (h : wireLength spec ≤ buf.length) : unpack p spec buf = decodeFields p buf spec 0 := by
  simp [unpack, hw, h]

theorem decodeFields_chk_of_eq {p : Params} {buf : Frame} {ks : FieldSpec} {k : Nat}
    (h : byteAt buf k = checksumByte p (buf.take k)) :
    decodeFields p buf (.chk :: ks) k = decodeFields p buf ks (k + 1) := by
  simp [decodeFields, h]

theorem decodeFields_chk_of_ne {p : Params} {buf : Frame} {ks : FieldSpec} {k : Nat}
    (h : byteAt buf k ≠ checksumByte p (buf.take k)) :
    decodeFields p buf (.chk :: ks) k = .error (.checksum k) := by
  simp [decodeFields, h]

/-- The only error of decoding is a checksum's. -/
theorem decodeFields_eq_error {p : Params} {buf : Frame} {spec : FieldSpec} {k : Nat} {e : BlockError}
    (h : decodeFields p buf spec k = .error e) : ∃ j, e = .checksum j := by
  induction spec generalizing k with
  | nil => cases h
  | cons kind ks ih =>
    cases kind with
    | chk =>
      simp only [decodeFields] at h
      split at h
      · exact ih h
      · cases h; exact ⟨_, rfl⟩
    | skip n => exact ih h
    | lit | byte | nib | str n =>
      simp only [decodeFields] at h
      generalize hd : decodeFields p buf ks _ = d at h
      cases d with
      | error e' => cases h; exact ih hd
      | ok vs => cases h

end Sys2Proof.Machine
end

