-- ==== Sys2Proof/Laws/State.lean ====
section
/-! SUPPORT. One lemma per field per update of the state, so that no later proof unfolds a record update. -/

namespace Sys2Proof.Machine

open Sys2Proof

/-! ## `State.respond` -/

@[simp] theorem State.respond_params (r : Response) (s : State) : (s.respond r).params = s.params := rfl
@[simp] theorem State.respond_phase (r : Response) (s : State) : (s.respond r).phase = s.phase := rfl
@[simp] theorem State.respond_closed (r : Response) (s : State) : (s.respond r).closed = s.closed := rfl
@[simp] theorem State.respond_key (r : Response) (s : State) : (s.respond r).key = s.key := rfl
@[simp] theorem State.respond_queue (r : Response) (s : State) : (s.respond r).queue = s.queue := rfl
@[simp] theorem State.respond_ctx (r : Response) (s : State) : (s.respond r).ctx = s.ctx := rfl
@[simp] theorem State.respond_discards (r : Response) (s : State) : (s.respond r).discards = s.discards := rfl
@[simp] theorem State.respond_events (r : Response) (s : State) : (s.respond r).events = s.events := rfl
@[simp] theorem State.respond_arrivals (r : Response) (s : State) : (s.respond r).arrivals = s.arrivals := rfl
@[simp] theorem State.respond_txAnswers (r : Response) (s : State) : (s.respond r).txAnswers = s.txAnswers := rfl
@[simp] theorem State.respond_sends (r : Response) (s : State) : (s.respond r).sends = s.sends := rfl
@[simp] theorem State.respond_out (r : Response) (s : State) : (s.respond r).out = s.out ++ [.rsp r] := rfl

/-! ## `State.discardFrame` -/

@[simp] theorem State.discardFrame_params (f : Frame) (s : State) : (s.discardFrame f).params = s.params := rfl
@[simp] theorem State.discardFrame_phase (f : Frame) (s : State) : (s.discardFrame f).phase = s.phase := rfl
@[simp] theorem State.discardFrame_closed (f : Frame) (s : State) : (s.discardFrame f).closed = s.closed := rfl
@[simp] theorem State.discardFrame_key (f : Frame) (s : State) : (s.discardFrame f).key = s.key := rfl
@[simp] theorem State.discardFrame_queue (f : Frame) (s : State) : (s.discardFrame f).queue = s.queue := rfl
@[simp] theorem State.discardFrame_ctx (f : Frame) (s : State) : (s.discardFrame f).ctx = s.ctx := rfl
@[simp] theorem State.discardFrame_discards (f : Frame) (s : State) : (s.discardFrame f).discards = s.discards + 1 := rfl
@[simp] theorem State.discardFrame_events (f : Frame) (s : State) : (s.discardFrame f).events = s.events := rfl
@[simp] theorem State.discardFrame_arrivals (f : Frame) (s : State) : (s.discardFrame f).arrivals = s.arrivals := rfl
@[simp] theorem State.discardFrame_txAnswers (f : Frame) (s : State) : (s.discardFrame f).txAnswers = s.txAnswers := rfl
@[simp] theorem State.discardFrame_sends (f : Frame) (s : State) : (s.discardFrame f).sends = s.sends := rfl
@[simp] theorem State.discardFrame_out (f : Frame) (s : State) : (s.discardFrame f).out = s.out ++ [.diag f] := rfl

/-! ## `State.release` -/

@[simp] theorem State.release_params (s : State) : (s.release).params = s.params := rfl
@[simp] theorem State.release_phase (s : State) : (s.release).phase = .idle := rfl
@[simp] theorem State.release_closed (s : State) : (s.release).closed = s.closed := rfl
@[simp] theorem State.release_key (s : State) : (s.release).key = none := rfl
@[simp] theorem State.release_queue (s : State) : (s.release).queue = [] := rfl
@[simp] theorem State.release_ctx (s : State) : (s.release).ctx = none := rfl
@[simp] theorem State.release_discards (s : State) : (s.release).discards = s.discards := rfl
@[simp] theorem State.release_events (s : State) : (s.release).events = s.events := rfl
@[simp] theorem State.release_arrivals (s : State) : (s.release).arrivals = s.arrivals := rfl
@[simp] theorem State.release_txAnswers (s : State) : (s.release).txAnswers = s.txAnswers := rfl
@[simp] theorem State.release_sends (s : State) : (s.release).sends = s.sends := rfl
@[simp] theorem State.release_out (s : State) : (s.release).out = s.out := rfl

/-! ## `State.offer` -/

@[simp] theorem State.offer_params (f : Frame) (s : State) : (s.offer f).params = s.params := rfl
@[simp] theorem State.offer_phase (f : Frame) (s : State) : (s.offer f).phase = s.phase := rfl
@[simp] theorem State.offer_closed (f : Frame) (s : State) : (s.offer f).closed = s.closed := rfl
@[simp] theorem State.offer_key (f : Frame) (s : State) : (s.offer f).key = s.key := rfl
@[simp] theorem State.offer_queue (f : Frame) (s : State) : (s.offer f).queue = s.queue := rfl
@[simp] theorem State.offer_ctx (f : Frame) (s : State) : (s.offer f).ctx = s.ctx := rfl
@[simp] theorem State.offer_discards (f : Frame) (s : State) : (s.offer f).discards = s.discards := rfl
@[simp] theorem State.offer_events (f : Frame) (s : State) : (s.offer f).events = s.events := rfl
@[simp] theorem State.offer_arrivals (f : Frame) (s : State) : (s.offer f).arrivals = s.arrivals := rfl
@[simp] theorem State.offer_txAnswers (f : Frame) (s : State) : (s.offer f).txAnswers = s.txAnswers.tail := rfl
@[simp] theorem State.offer_sends (f : Frame) (s : State) : (s.offer f).sends = s.sends + 1 := rfl
@[simp] theorem State.offer_out (f : Frame) (s : State) : (s.offer f).out = s.out ++ [.tx f (txOutcome s) (lineBytes f s.sends (txOutcome s))] := rfl

/-! ## `State.await` -/

@[simp] theorem State.await_params (f : Frame) (rest : List Frame) (s : State) : (s.await f rest).params = s.params := rfl
@[simp] theorem State.await_phase (f : Frame) (rest : List Frame) (s : State) : (s.await f rest).phase = .await := rfl
@[simp] theorem State.await_closed (f : Frame) (rest : List Frame) (s : State) : (s.await f rest).closed = s.closed := rfl
@[simp] theorem State.await_key (f : Frame) (rest : List Frame) (s : State) : (s.await f rest).key = f.head? := rfl
@[simp] theorem State.await_queue (f : Frame) (rest : List Frame) (s : State) : (s.await f rest).queue = rest := rfl
@[simp] theorem State.await_ctx (f : Frame) (rest : List Frame) (s : State) : (s.await f rest).ctx = s.ctx := rfl
@[simp] theorem State.await_discards (f : Frame) (rest : List Frame) (s : State) : (s.await f rest).discards = s.discards := rfl
@[simp] theorem State.await_events (f : Frame) (rest : List Frame) (s : State) : (s.await f rest).events = s.events := rfl
@[simp] theorem State.await_arrivals (f : Frame) (rest : List Frame) (s : State) : (s.await f rest).arrivals = s.arrivals := rfl
@[simp] theorem State.await_txAnswers (f : Frame) (rest : List Frame) (s : State) : (s.await f rest).txAnswers = s.txAnswers := rfl
@[simp] theorem State.await_sends (f : Frame) (rest : List Frame) (s : State) : (s.await f rest).sends = s.sends := rfl
@[simp] theorem State.await_out (f : Frame) (rest : List Frame) (s : State) : (s.await f rest).out = s.out := rfl

/-! ## `State.clearDiscards` -/

@[simp] theorem State.clearDiscards_params (s : State) : (s.clearDiscards).params = s.params := rfl
@[simp] theorem State.clearDiscards_phase (s : State) : (s.clearDiscards).phase = s.phase := rfl
@[simp] theorem State.clearDiscards_closed (s : State) : (s.clearDiscards).closed = s.closed := rfl
@[simp] theorem State.clearDiscards_key (s : State) : (s.clearDiscards).key = s.key := rfl
@[simp] theorem State.clearDiscards_queue (s : State) : (s.clearDiscards).queue = s.queue := rfl
@[simp] theorem State.clearDiscards_ctx (s : State) : (s.clearDiscards).ctx = s.ctx := rfl
@[simp] theorem State.clearDiscards_discards (s : State) : (s.clearDiscards).discards = 0 := rfl
@[simp] theorem State.clearDiscards_events (s : State) : (s.clearDiscards).events = s.events := rfl
@[simp] theorem State.clearDiscards_arrivals (s : State) : (s.clearDiscards).arrivals = s.arrivals := rfl
@[simp] theorem State.clearDiscards_txAnswers (s : State) : (s.clearDiscards).txAnswers = s.txAnswers := rfl
@[simp] theorem State.clearDiscards_sends (s : State) : (s.clearDiscards).sends = s.sends := rfl
@[simp] theorem State.clearDiscards_out (s : State) : (s.clearDiscards).out = s.out := rfl

/-! ## `State.serve` -/

@[simp] theorem State.serve_params (op : Opcode) (s : State) : (s.serve op).params = s.params := rfl
@[simp] theorem State.serve_phase (op : Opcode) (s : State) : (s.serve op).phase = s.phase := rfl
@[simp] theorem State.serve_closed (op : Opcode) (s : State) : (s.serve op).closed = s.closed := rfl
@[simp] theorem State.serve_key (op : Opcode) (s : State) : (s.serve op).key = s.key := rfl
@[simp] theorem State.serve_queue (op : Opcode) (s : State) : (s.serve op).queue = s.queue := rfl
@[simp] theorem State.serve_ctx (op : Opcode) (s : State) : (s.serve op).ctx = some op := rfl
@[simp] theorem State.serve_discards (op : Opcode) (s : State) : (s.serve op).discards = s.discards := rfl
@[simp] theorem State.serve_events (op : Opcode) (s : State) : (s.serve op).events = s.events := rfl
@[simp] theorem State.serve_arrivals (op : Opcode) (s : State) : (s.serve op).arrivals = s.arrivals := rfl
@[simp] theorem State.serve_txAnswers (op : Opcode) (s : State) : (s.serve op).txAnswers = s.txAnswers := rfl
@[simp] theorem State.serve_sends (op : Opcode) (s : State) : (s.serve op).sends = s.sends := rfl
@[simp] theorem State.serve_out (op : Opcode) (s : State) : (s.serve op).out = s.out := rfl

/-! ## `State.shut` -/

@[simp] theorem State.shut_params (s : State) : (s.shut).params = s.params := rfl
@[simp] theorem State.shut_phase (s : State) : (s.shut).phase = s.phase := rfl
@[simp] theorem State.shut_closed (s : State) : (s.shut).closed = true := rfl
@[simp] theorem State.shut_key (s : State) : (s.shut).key = s.key := rfl
@[simp] theorem State.shut_queue (s : State) : (s.shut).queue = s.queue := rfl
@[simp] theorem State.shut_ctx (s : State) : (s.shut).ctx = s.ctx := rfl
@[simp] theorem State.shut_discards (s : State) : (s.shut).discards = s.discards := rfl
@[simp] theorem State.shut_events (s : State) : (s.shut).events = s.events := rfl
@[simp] theorem State.shut_arrivals (s : State) : (s.shut).arrivals = s.arrivals := rfl
@[simp] theorem State.shut_txAnswers (s : State) : (s.shut).txAnswers = s.txAnswers := rfl
@[simp] theorem State.shut_sends (s : State) : (s.shut).sends = s.sends := rfl
@[simp] theorem State.shut_out (s : State) : (s.shut).out = s.out := rfl

/-! ## `blockReset` -/

@[simp] theorem blockReset_params (s : State) : (blockReset s).params = s.params := rfl
@[simp] theorem blockReset_phase (s : State) : (blockReset s).phase = .idle := rfl
@[simp] theorem blockReset_closed (s : State) : (blockReset s).closed = false := rfl
@[simp] theorem blockReset_key (s : State) : (blockReset s).key = none := rfl
@[simp] theorem blockReset_queue (s : State) : (blockReset s).queue = [] := rfl
@[simp] theorem blockReset_ctx (s : State) : (blockReset s).ctx = none := rfl
@[simp] theorem blockReset_discards (s : State) : (blockReset s).discards = 0 := rfl
@[simp] theorem blockReset_events (s : State) : (blockReset s).events = s.events := rfl
@[simp] theorem blockReset_arrivals (s : State) : (blockReset s).arrivals = s.arrivals := rfl
@[simp] theorem blockReset_txAnswers (s : State) : (blockReset s).txAnswers = s.txAnswers := rfl
@[simp] theorem blockReset_sends (s : State) : (blockReset s).sends = s.sends := rfl
@[simp] theorem blockReset_out (s : State) : (blockReset s).out = s.out := rfl

/-! ## `State.arrive` -/

@[simp] theorem State.arrive_params (e : Option Event) (s : State) : (s.arrive e).params = s.params := rfl
@[simp] theorem State.arrive_phase (e : Option Event) (s : State) : (s.arrive e).phase = s.phase := rfl
@[simp] theorem State.arrive_closed (e : Option Event) (s : State) : (s.arrive e).closed = s.closed := rfl
@[simp] theorem State.arrive_key (e : Option Event) (s : State) : (s.arrive e).key = s.key := rfl
@[simp] theorem State.arrive_queue (e : Option Event) (s : State) : (s.arrive e).queue = s.queue := rfl
@[simp] theorem State.arrive_ctx (e : Option Event) (s : State) : (s.arrive e).ctx = s.ctx := rfl
@[simp] theorem State.arrive_discards (e : Option Event) (s : State) : (s.arrive e).discards = s.discards := rfl
@[simp] theorem State.arrive_events (e : Option Event) (s : State) : (s.arrive e).events = s.events ++ e.toList := rfl
@[simp] theorem State.arrive_arrivals (e : Option Event) (s : State) : (s.arrive e).arrivals = s.arrivals + 1 := rfl
@[simp] theorem State.arrive_txAnswers (e : Option Event) (s : State) : (s.arrive e).txAnswers = s.txAnswers := rfl
@[simp] theorem State.arrive_sends (e : Option Event) (s : State) : (s.arrive e).sends = s.sends := rfl
@[simp] theorem State.arrive_out (e : Option Event) (s : State) : (s.arrive e).out = s.out := rfl

/-! ## `endOk` -/

@[simp] theorem endOk_params (r : Result) (s : State) : (endOk r s).params = s.params := rfl
@[simp] theorem endOk_phase (r : Result) (s : State) : (endOk r s).phase = .idle := rfl
@[simp] theorem endOk_closed (r : Result) (s : State) : (endOk r s).closed = s.closed := rfl
@[simp] theorem endOk_key (r : Result) (s : State) : (endOk r s).key = none := rfl
@[simp] theorem endOk_queue (r : Result) (s : State) : (endOk r s).queue = [] := rfl
@[simp] theorem endOk_ctx (r : Result) (s : State) : (endOk r s).ctx = none := rfl
@[simp] theorem endOk_discards (r : Result) (s : State) : (endOk r s).discards = s.discards := rfl
@[simp] theorem endOk_events (r : Result) (s : State) : (endOk r s).events = s.events := rfl
@[simp] theorem endOk_arrivals (r : Result) (s : State) : (endOk r s).arrivals = s.arrivals := rfl
@[simp] theorem endOk_txAnswers (r : Result) (s : State) : (endOk r s).txAnswers = s.txAnswers := rfl
@[simp] theorem endOk_sends (r : Result) (s : State) : (endOk r s).sends = s.sends := rfl
@[simp] theorem endOk_out (r : Result) (s : State) : (endOk r s).out = s.out ++ [.rsp (.ok r)] := rfl

/-! ## `endErr` -/

@[simp] theorem endErr_params (e : BlockError) (s : State) : (endErr e s).params = s.params := rfl
@[simp] theorem endErr_phase (e : BlockError) (s : State) : (endErr e s).phase = .idle := rfl
@[simp] theorem endErr_closed (e : BlockError) (s : State) : (endErr e s).closed = s.closed := rfl
@[simp] theorem endErr_key (e : BlockError) (s : State) : (endErr e s).key = none := rfl
@[simp] theorem endErr_queue (e : BlockError) (s : State) : (endErr e s).queue = [] := rfl
@[simp] theorem endErr_ctx (e : BlockError) (s : State) : (endErr e s).ctx = none := rfl
@[simp] theorem endErr_discards (e : BlockError) (s : State) : (endErr e s).discards = s.discards := rfl
@[simp] theorem endErr_events (e : BlockError) (s : State) : (endErr e s).events = s.events := rfl
@[simp] theorem endErr_arrivals (e : BlockError) (s : State) : (endErr e s).arrivals = s.arrivals := rfl
@[simp] theorem endErr_txAnswers (e : BlockError) (s : State) : (endErr e s).txAnswers = s.txAnswers := rfl
@[simp] theorem endErr_sends (e : BlockError) (s : State) : (endErr e s).sends = s.sends := rfl
@[simp] theorem endErr_out (e : BlockError) (s : State) : (endErr e s).out = s.out ++ [.rsp (.err (errorNumber e))] := rfl

/-! ## `refuse` -/

@[simp] theorem refuse_params (e : BlockError) (s : State) : (refuse e s).params = s.params := rfl
@[simp] theorem refuse_phase (e : BlockError) (s : State) : (refuse e s).phase = s.phase := rfl
@[simp] theorem refuse_closed (e : BlockError) (s : State) : (refuse e s).closed = s.closed := rfl
@[simp] theorem refuse_key (e : BlockError) (s : State) : (refuse e s).key = s.key := rfl
@[simp] theorem refuse_queue (e : BlockError) (s : State) : (refuse e s).queue = s.queue := rfl
@[simp] theorem refuse_ctx (e : BlockError) (s : State) : (refuse e s).ctx = s.ctx := rfl
@[simp] theorem refuse_discards (e : BlockError) (s : State) : (refuse e s).discards = 0 := rfl
@[simp] theorem refuse_events (e : BlockError) (s : State) : (refuse e s).events = s.events := rfl
@[simp] theorem refuse_arrivals (e : BlockError) (s : State) : (refuse e s).arrivals = s.arrivals := rfl
@[simp] theorem refuse_txAnswers (e : BlockError) (s : State) : (refuse e s).txAnswers = s.txAnswers := rfl
@[simp] theorem refuse_sends (e : BlockError) (s : State) : (refuse e s).sends = s.sends := rfl
@[simp] theorem refuse_out (e : BlockError) (s : State) : (refuse e s).out = s.out ++ [.rsp (.err (errorNumber e))] := rfl

/-! ## Block reset forgets every register -/

/-- Two states of one configuration that agree at the ports are equal after block reset. -/
theorem blockReset_congr {s t : State} (hp : s.params = t.params) (he : s.events = t.events)
    (hw : s.arrivals = t.arrivals) (ha : s.txAnswers = t.txAnswers) (hn : s.sends = t.sends)
    (ho : s.out = t.out) : blockReset s = blockReset t := by
  simp only [blockReset, hp, he, hw, ha, hn, ho]

end Sys2Proof.Machine
end

