-- ==== Sys2Proof/Laws/Ops.lean ====
section
/-! SUPPORT. For each shared operation on the registers and ports, what it can do, said once. -/

namespace Sys2Proof.Machine

open Sys2Proof

/-! ## `txOutcome` and `send` -/

theorem txOutcome_of_closed {s : State} (h : s.closed = true) : txOutcome s = .ioerr := by
  simp [txOutcome, h]

theorem txOutcome_of_answer {s : State} {o : TxOutcome} {os : List TxOutcome} (hc : s.closed = false)
    (ha : s.txAnswers = o :: os) : txOutcome s = o := by
  simp [txOutcome, hc, ha]

theorem txOutcome_of_noAnswer {s : State} (hc : s.closed = false) (ha : s.txAnswers = []) :
    txOutcome s = Config.txDraw s.sends := by
  simp [txOutcome, hc, ha]

/-- The transport's answer depends on nothing but `closed`, the answers placed and the count of sends. -/
theorem txOutcome_congr {s t : State} (hc : s.closed = t.closed) (ha : s.txAnswers = t.txAnswers)
    (hn : s.sends = t.sends) : txOutcome s = txOutcome t := by
  simp only [txOutcome, hc, ha, hn]

@[simp] theorem txOutcome_clearDiscards (s : State) : txOutcome s.clearDiscards = txOutcome s := rfl

@[simp] theorem txOutcome_serve (op : Opcode) (s : State) : txOutcome (s.serve op) = txOutcome s := rfl

@[simp] theorem lineBytes_ok (f : Frame) (n : Nat) : lineBytes f n .ok = f := rfl

/-- On a failed send the bytes on the line are a prefix of the frame. -/
theorem lineBytes_isPrefix (f : Frame) (n : Nat) (o : TxOutcome) : lineBytes f n o <+: f := by
  cases o with
  | ok => exact List.prefix_rfl
  | timeout => exact List.take_prefix _ _
  | ioerr => exact List.take_prefix _ _

theorem send_of_ok {f : Frame} {rest : List Frame} {s : State} (h : txOutcome s = .ok) :
    send f rest s = (s.offer f).await f rest := by
  simp [send, h]

theorem send_of_timeout {f : Frame} {rest : List Frame} {s : State} (h : txOutcome s = .timeout) :
    send f rest s = endErr .timeout (s.offer f) := by
  simp [send, h]

theorem send_of_ioerr {f : Frame} {rest : List Frame} {s : State} (h : txOutcome s = .ioerr) :
    send f rest s = endErr .io (s.offer f) := by
  simp [send, h]

/-- Everything `send` can do. -/
theorem send_cases (f : Frame) (rest : List Frame) (s : State) :
    (txOutcome s = .ok ∧ send f rest s = (s.offer f).await f rest) ∨
    (txOutcome s = .timeout ∧ send f rest s = endErr .timeout (s.offer f)) ∨
    (txOutcome s = .ioerr ∧ send f rest s = endErr .io (s.offer f)) := by
  cases h : txOutcome s with
  | ok => exact .inl ⟨rfl, send_of_ok h⟩
  | timeout => exact .inr (.inl ⟨rfl, send_of_timeout h⟩)
  | ioerr => exact .inr (.inr ⟨rfl, send_of_ioerr h⟩)

/-! ## `accept` -/

theorem accept_of_await {op : Opcode} {b : Build} {s : State} (h : s.phase = .await) : accept op b s = s := by
  simp [accept, h]

theorem accept_fail {op : Opcode} {e : BlockError} {s : State} (h : s.phase = .idle) :
    accept op (.fail e) s = refuse e s := by
  simp [accept, h]

theorem accept_done {op : Opcode} {r : Result} {s : State} (h : s.phase = .idle) :
    accept op (.done r) s = s.clearDiscards.respond (.ok r) := by
  simp [accept, h]

theorem accept_send {op : Opcode} {f : Frame} {rest : List Frame} {s : State} (h : s.phase = .idle) :
    accept op (.send f rest) s = send f rest (s.clearDiscards.serve op) := by
  simp [accept, h]

/-- Everything `accept` can do. -/
theorem accept_cases (op : Opcode) (b : Build) (s : State) :
    (s.phase = .await ∧ accept op b s = s) ∨
    (s.phase = .idle ∧ ∃ e, b = .fail e ∧ accept op b s = refuse e s) ∨
    (s.phase = .idle ∧ ∃ r, b = .done r ∧ accept op b s = s.clearDiscards.respond (.ok r)) ∨
    (s.phase = .idle ∧ ∃ f rest, b = .send f rest ∧ accept op b s = send f rest (s.clearDiscards.serve op)) := by
  cases hp : s.phase with
  | await => exact .inl ⟨rfl, accept_of_await hp⟩
  | idle =>
    cases b with
    | fail e => exact .inr (.inl ⟨rfl, e, rfl, accept_fail hp⟩)
    | done r => exact .inr (.inr (.inl ⟨rfl, r, rfl, accept_done hp⟩))
    | send f rest => exact .inr (.inr (.inr ⟨rfl, f, rest, rfl, accept_send hp⟩))

end Sys2Proof.Machine
end

