-- ==== Sys2Proof/Laws/Parameters.lean ====
section
/-! SUPPORT. The parameter values of the machine, one lemma per parameter. -/

namespace Sys2Proof.Machine

open Sys2Proof

@[simp] theorem cu_nibBase : cu.nibBase = 0x30 := rfl
@[simp] theorem cu_padByte : cu.padByte = 0x30 := rfl
@[simp] theorem cu_m0 : cu.m0 = 0x3F := rfl
@[simp] theorem cu_m1 : cu.m1 = 0x3A := rfl
@[simp] theorem cu_tagWord : cu.tagWord = 0x4A := rfl
@[simp] theorem cu_tagIgnore : cu.tagIgnore = 0x3A := rfl
@[simp] theorem cu_resetFrame : cu.resetFrame = [0x3D, 0x31, 0x30] := rfl
@[simp] theorem cu_versionFrame : cu.versionFrame = [0x30] := rfl
@[simp] theorem cu_pollFrame : cu.pollFrame = [0x3F] := rfl
@[simp] theorem cu_tagButton : cu.tagButton = 0x54 := rfl
@[simp] theorem cu_wSpeed : cu.wSpeed = 0 := rfl
@[simp] theorem cu_wBrake : cu.wBrake = 1 := rfl
@[simp] theorem cu_wFuel : cu.wFuel = 2 := rfl
@[simp] theorem cu_wPos : cu.wPos = 6 := rfl
@[simp] theorem cu_wLapHi : cu.wLapHi = 17 := rfl
@[simp] theorem cu_wLapLo : cu.wLapLo = 18 := rfl
@[simp] theorem cu_lapAddr : cu.lapAddr = 7 := rfl
@[simp] theorem cu_timerLead : cu.timerLead = 1 := rfl
@[simp] theorem cu_versionLead : cu.versionLead = 1 := rfl

end Sys2Proof.Machine
end

