-- ==== Sys2Proof/Laws/PerInstr.lean ====
section
/-! SUPPORT. The bit fields of an encoded request, and the families of statements made per operation. -/

namespace Sys2Proof

/-! ## The fields of a request word -/

/-- A request word as four appended lanes, at the width the appending gives it. -/
abbrev fieldsOf (w : BitVec (32 + 32 + 32 + 8)) (start len : Nat) : BitVec len := w.extractLsb' start len

theorem requestWord_op (op : Opcode) (a v r : Word32) :
    (requestWord op a v r).extractLsb' 0 8 = opcodeByte op := by
  change fieldsOf (((r ++ v) ++ a) ++ opcodeByte op) 0 8 = _
  apply BitVec.eq_of_getLsbD_eq
  intro i hi
  rw [BitVec.getLsbD_extractLsb', BitVec.getLsbD_append]
  simp [hi]

theorem requestWord_a (op : Opcode) (a v r : Word32) : (requestWord op a v r).extractLsb' 8 32 = a := by
  change fieldsOf (((r ++ v) ++ a) ++ opcodeByte op) 8 32 = _
  apply BitVec.eq_of_getLsbD_eq
  intro i hi
  rw [BitVec.getLsbD_extractLsb', BitVec.getLsbD_append, BitVec.getLsbD_append]
  simp [hi]

theorem requestWord_v (op : Opcode) (a v r : Word32) : (requestWord op a v r).extractLsb' 40 32 = v := by
  change fieldsOf (((r ++ v) ++ a) ++ opcodeByte op) 40 32 = _
  apply BitVec.eq_of_getLsbD_eq
  intro i hi
  have h1 : ¬40 + i < 8 := by omega
  have h2 : ¬40 + i - 8 < 32 := by omega
  have h3 : 40 + i - 8 - 32 = i := by omega
  rw [BitVec.getLsbD_extractLsb', BitVec.getLsbD_append, BitVec.getLsbD_append, BitVec.getLsbD_append]
  simp only [h1, h2, h3, hi, decide_true, Bool.true_and, if_true, if_false]

theorem requestWord_r (op : Opcode) (a v r : Word32) : (requestWord op a v r).extractLsb' 72 32 = r := by
  change fieldsOf (((r ++ v) ++ a) ++ opcodeByte op) 72 32 = _
  apply BitVec.eq_of_getLsbD_eq
  intro i hi
  have h1 : ¬72 + i < 8 := by omega
  have h2 : ¬72 + i - 8 < 32 := by omega
  have h3 : ¬72 + i - 8 - 32 < 32 := by omega
  have h4 : 72 + i - 8 - 32 - 32 = i := by omega
  rw [BitVec.getLsbD_extractLsb', BitVec.getLsbD_append, BitVec.getLsbD_append, BitVec.getLsbD_append]
  simp only [h1, h2, h3, h4, hi, decide_true, Bool.true_and, if_false]

/-! ## Per operation: the encoding carries the operation's code, and the code selects the operation -/

/-- The code in an operation's request word is the one the table gives it, and the table reads it back. -/
def Laws.EncodedCode.Statement (i : Instr) : Prop :=
  (encode i).op = opcodeByte (opcodeOf i) ∧ opcodeOfByte (encode i).op = some (opcodeOf i)

theorem Laws.encodedCode_of {i : Instr} (h : (encode i).op = opcodeByte (opcodeOf i)) :
    Laws.EncodedCode.Statement i := by
  refine ⟨h, ?_⟩
  rw [h]
  cases opcodeOf i <;> rfl

theorem Laws.EncodedCode.setspeed (a v r : Word32) : Laws.EncodedCode.Statement (.setspeed a v r) :=
  encodedCode_of (requestWord_op _ _ _ _)

theorem Laws.EncodedCode.setbrake (a v r : Word32) : Laws.EncodedCode.Statement (.setbrake a v r) :=
  encodedCode_of (requestWord_op _ _ _ _)

theorem Laws.EncodedCode.setfuel (a v r : Word32) : Laws.EncodedCode.Statement (.setfuel a v r) :=
  encodedCode_of (requestWord_op _ _ _ _)

theorem Laws.EncodedCode.setpos (a v r : Word32) : Laws.EncodedCode.Statement (.setpos a v r) :=
  encodedCode_of (requestWord_op _ _ _ _)

theorem Laws.EncodedCode.clrpos : Laws.EncodedCode.Statement .clrpos :=
  encodedCode_of (requestWord_op _ _ _ _)

theorem Laws.EncodedCode.setlap (v : Word32) : Laws.EncodedCode.Statement (.setlap v) :=
  encodedCode_of (requestWord_op _ _ _ _)

theorem Laws.EncodedCode.ignore (v : Word32) : Laws.EncodedCode.Statement (.ignore v) :=
  encodedCode_of (requestWord_op _ _ _ _)

theorem Laws.EncodedCode.reset : Laws.EncodedCode.Statement .reset :=
  encodedCode_of (requestWord_op _ _ _ _)

theorem Laws.EncodedCode.version : Laws.EncodedCode.Statement .version :=
  encodedCode_of (requestWord_op _ _ _ _)

theorem Laws.EncodedCode.request : Laws.EncodedCode.Statement .request :=
  encodedCode_of (requestWord_op _ _ _ _)

theorem Laws.EncodedCode.pressPaceCar : Laws.EncodedCode.Statement .pressPaceCar :=
  encodedCode_of (requestWord_op _ _ _ _)

theorem Laws.EncodedCode.pressStart : Laws.EncodedCode.Statement .pressStart :=
  encodedCode_of (requestWord_op _ _ _ _)

theorem Laws.EncodedCode.pressSpeed : Laws.EncodedCode.Statement .pressSpeed :=
  encodedCode_of (requestWord_op _ _ _ _)

theorem Laws.EncodedCode.pressBrake : Laws.EncodedCode.Statement .pressBrake :=
  encodedCode_of (requestWord_op _ _ _ _)

theorem Laws.EncodedCode.pressFuel : Laws.EncodedCode.Statement .pressFuel :=
  encodedCode_of (requestWord_op _ _ _ _)

theorem Laws.EncodedCode.pressCode : Laws.EncodedCode.Statement .pressCode :=
  encodedCode_of (requestWord_op _ _ _ _)

theorem Laws.EncodedCode.pack (spec : FieldSpec) (vals : List Value) : Laws.EncodedCode.Statement (.pack spec vals) :=
  encodedCode_of (requestWord_op _ _ _ _)

theorem Laws.EncodedCode.unpack (spec : FieldSpec) (buf : Frame) : Laws.EncodedCode.Statement (.unpack spec buf) :=
  encodedCode_of (requestWord_op _ _ _ _)

end Sys2Proof
end

