-- ==== Sys2Proof/Laws/Session.lean ====
section
/-! SUPPORT. What the correlator's operations can do, said once each. -/

namespace Sys2Proof.Machine

open Sys2Proof

/-! ## `classify` and `postProcess` -/

theorem classify_of_neither {p : Params} {b : Byte} {f : Frame} (h : b ≠ p.m0) :
    classify p (b :: f) = .ok (.raw (b :: f)) := by
  cases f <;> simp [classify, startsStatus, startsGeneric, h]

theorem classify_of_status {p : Params} {f : Frame} :
    classify p (p.m0 :: p.m1 :: f) = decodeStatus p (p.m0 :: p.m1 :: f) := by
  simp [classify, startsStatus]

theorem classify_of_generic {p : Params} {b : Byte} {f : Frame} (h : b ≠ p.m1) :
    classify p (p.m0 :: b :: f) = decodeTimer p (p.m0 :: b :: f) := by
  simp [classify, startsStatus, startsGeneric, h]

theorem classify_of_markerOnly {p : Params} : classify p [p.m0] = decodeTimer p [p.m0] := by
  simp [classify, startsStatus, startsGeneric]

/-- A status decoding that succeeds gives a Status record. -/
theorem decodeStatus_eq_ok {p : Params} {f : Frame} {r : Result} (h : decodeStatus p f = .ok r) :
    ∃ st, r = .status st := by
  simp only [decodeStatus] at h
  split at h
  · cases h; exact ⟨_, rfl⟩
  · split at h
    · cases h; exact ⟨_, rfl⟩
    · cases h
    · cases h
  · cases h

/-- A Timer decoding that succeeds gives a Timer record. -/
theorem decodeTimer_eq_ok {p : Params} {f : Frame} {r : Result} (h : decodeTimer p f = .ok r) :
    ∃ t, r = .timer t := by
  simp only [decodeTimer] at h
  split at h
  · cases h; exact ⟨_, rfl⟩
  · cases h

/-- Post-processing for an operation other than `VERSION` is the classification. -/
theorem postProcess_of_ne_version {p : Params} {ctx : Option Opcode} {f : Frame} (h : ctx ≠ some .version) :
    postProcess p ctx f = classify p f := by
  simp only [postProcess, h, if_false]
  split <;> simp_all

/-! ## `finish`, `onMatch`, `onFrame`, `onRx`, `onClose` -/

@[simp] theorem finish_ok (s : State) (r : Result) : finish s (.ok r) = endOk r s := rfl

@[simp] theorem finish_error (s : State) (e : BlockError) : finish s (.error e) = endErr e s := rfl

theorem onMatch_of_empty {f : Frame} {s : State} (h : s.queue = []) :
    onMatch f s = .next (finish s (postProcess s.params s.ctx f)) := by
  simp [onMatch, h]

theorem onMatch_of_queued {f g : Frame} {b : Byte} {s : State} (h : s.queue = [b :: g]) :
    onMatch f s = .next (send (b :: g) [] s) := by
  simp [onMatch, h]

/-- What a match that answers a next state can do. -/
theorem onMatch_cases {f : Frame} {s t : State} (h : onMatch f s = .next t) :
    (s.queue = [] ∧ t = finish s (postProcess s.params s.ctx f)) ∨
    (∃ b g, s.queue = [b :: g] ∧ t = send (b :: g) [] s) := by
  simp only [onMatch] at h
  split at h
  · next hq => cases h; exact .inl ⟨hq, rfl⟩
  · next b g hq => cases h; exact .inr ⟨b, g, hq, rfl⟩
  · cases h

theorem onFrame_nil (s : State) : onFrame [] s = .next (endErr .timeout s) := rfl

theorem onFrame_of_match {k : Byte} {f : Frame} {s : State} (h : s.key = some k) :
    onFrame (k :: f) s = onMatch (k :: f) s := by
  simp [onFrame, h]

theorem onFrame_of_noMatch {b k : Byte} {f : Frame} {s : State} (h : s.key = some k) (hb : b ≠ k) :
    onFrame (b :: f) s = .next (s.discardFrame (b :: f)) := by
  simp [onFrame, h, hb]

/-- What a frame that answers a next state can do. -/
theorem onFrame_cases {f : Frame} {s t : State} (h : onFrame f s = .next t) :
    (f = [] ∧ t = endErr .timeout s) ∨
    (∃ k f', f = k :: f' ∧ s.key = some k ∧ onMatch f s = .next t) ∨
    (∃ b k f', f = b :: f' ∧ s.key = some k ∧ b ≠ k ∧ t = s.discardFrame f) := by
  cases f with
  | nil => cases h; exact .inl ⟨rfl, rfl⟩
  | cons b f' =>
    simp only [onFrame] at h
    split at h
    · cases h
    · next k hk =>
      split at h
      · next hb => exact .inr (.inl ⟨b, f', rfl, hb ▸ hk, h⟩)
      · next hb => cases h; exact .inr (.inr ⟨b, k, f', rfl, hk, hb, rfl⟩)

theorem onRx_frame (f : Frame) (s : State) : onRx (.frame f) s = onFrame f s := rfl

theorem onRx_ioerr (s : State) : onRx .ioerr s = .next (endErr .io s) := rfl

theorem onClose_of_idle {s : State} (h : s.phase = .idle) : onClose s = s.shut := by
  simp [onClose, h]

theorem onClose_of_await {s : State} (h : s.phase = .await) : onClose s = endErr .io s.shut := by
  simp [onClose, h]

/-- Everything `CLOSE` can do. -/
theorem onClose_cases (s : State) :
    (s.phase = .idle ∧ onClose s = s.shut) ∨ (s.phase = .await ∧ onClose s = endErr .io s.shut) := by
  cases hp : s.phase with
  | idle => exact .inl ⟨rfl, onClose_of_idle hp⟩
  | await => exact .inr ⟨rfl, onClose_of_await hp⟩

end Sys2Proof.Machine
end

