-- ==== Sys2Proof/Laws/Step.lean ====
section
/-! SUPPORT. What one step can do: the event that fires, and everything each event can do. -/

namespace Sys2Proof.Machine

open Sys2Proof

/-! ## `eventReady` and `takeEvent` -/

theorem idle_of_req_ready {ph : Phase} {r : Request} (h : eventReady ph (.req r) = true) : ph = .idle := by
  cases ph with
  | idle => rfl
  | await => cases h

theorem await_of_rx_ready {ph : Phase} {x : RxEvent} (h : eventReady ph (.rx x) = true) : ph = .await := by
  cases ph with
  | idle => cases h
  | await => rfl

@[simp] theorem takeEvent_nil (ph : Phase) : takeEvent ph [] = none := rfl

theorem takeEvent_of_ready {ph : Phase} {e : Event} {es : List Event} (h : eventReady ph e = true) :
    takeEvent ph (e :: es) = some (e, es) := by
  simp [takeEvent, h]

theorem takeEvent_of_notReady {ph : Phase} {e : Event} {es : List Event} (h : eventReady ph e = false) :
    takeEvent ph (e :: es) = (takeEvent ph es).map fun x => (x.1, e :: x.2) := by
  simp only [takeEvent, h]
  cases takeEvent ph es with
  | none => rfl
  | some x => rfl

/-- The event taken is one the phase accepts. -/
theorem takeEvent_ready {ph : Phase} {es rest : List Event} {e : Event} (h : takeEvent ph es = some (e, rest)) :
    eventReady ph e = true := by
  induction es generalizing rest with
  | nil => cases h
  | cons x xs ih =>
    by_cases hx : eventReady ph x = true
    · rw [takeEvent_of_ready hx] at h
      cases h
      exact hx
    · rw [takeEvent_of_notReady (by simpa using hx)] at h
      cases ht : takeEvent ph xs with
      | none => rw [ht] at h; cases h
      | some y =>
        rw [ht] at h
        cases h
        exact ih ht

/-- No event is taken exactly when the phase accepts none of them. -/
theorem takeEvent_eq_none {ph : Phase} {es : List Event} :
    takeEvent ph es = none ↔ ∀ x ∈ es, eventReady ph x = false := by
  induction es with
  | nil => simp
  | cons x xs ih =>
    by_cases hx : eventReady ph x = true
    · simp [takeEvent_of_ready hx, hx]
    · have hx' : eventReady ph x = false := by simpa using hx
      simp [takeEvent_of_notReady hx', hx', ih]

/-- After events the phase accepts none of, an event it accepts is the one taken. -/
theorem takeEvent_append_of_ready {ph : Phase} {before after : List Event} {e : Event}
    (hb : ∀ x ∈ before, eventReady ph x = false) (he : eventReady ph e = true) :
    takeEvent ph (before ++ e :: after) = some (e, before ++ after) := by
  induction before with
  | nil => exact takeEvent_of_ready he
  | cons x xs ih =>
    rw [List.cons_append, takeEvent_of_notReady (hb x (by simp)), ih fun y hy => hb y (by simp [hy])]
    rfl

/-- The events before the taken one stay in front of those after it. -/
theorem takeEvent_split {ph : Phase} {es rest : List Event} {e : Event} (h : takeEvent ph es = some (e, rest)) :
    ∃ before after, es = before ++ e :: after ∧ rest = before ++ after ∧ ∀ x ∈ before, eventReady ph x = false := by
  induction es generalizing rest with
  | nil => cases h
  | cons x xs ih =>
    by_cases hx : eventReady ph x = true
    · rw [takeEvent_of_ready hx] at h
      cases h
      exact ⟨[], _, rfl, rfl, by simp⟩
    · have hx' : eventReady ph x = false := by simpa using hx
      rw [takeEvent_of_notReady hx'] at h
      cases ht : takeEvent ph xs with
      | none => rw [ht] at h; cases h
      | some y =>
        rw [ht] at h
        cases h
        obtain ⟨before, after, h1, h2, h3⟩ := ih ht
        refine ⟨x :: before, after, by simp [h1], by simp [h2], ?_⟩
        intro z hz
        rcases List.mem_cons.mp hz with rfl | hz
        · exact hx'
        · exact h3 z hz

/-! ## `exec` -/

/-- What an operation builds from the parameters (R162). -/
def buildOf (p : Params) : Instr → Build
  | .setspeed a v r => wordWriteBuild p p.wSpeed chkNval a.toInt v.toInt r.toInt
  | .setbrake a v r => wordWriteBuild p p.wBrake chkNval a.toInt v.toInt r.toInt
  | .setfuel a v r => wordWriteBuild p p.wFuel chkNval a.toInt v.toInt r.toInt
  | .setpos a v r => wordWriteBuild p p.wPos chkPos a.toInt v.toInt r.toInt
  | .clrpos => clrposBuild p
  | .setlap v => setlapBuild p v.toInt
  | .ignore v => ignoreBuild p v.toInt
  | .reset => fixedBuild p.resetFrame
  | .version => fixedBuild p.versionFrame
  | .request => fixedBuild p.pollFrame
  | .pressPaceCar => fixedBuild (buttonFrame p p.btnPaceCar)
  | .pressStart => fixedBuild (buttonFrame p p.btnStart)
  | .pressSpeed => fixedBuild (buttonFrame p p.btnSpeed)
  | .pressBrake => fixedBuild (buttonFrame p p.btnBrake)
  | .pressFuel => fixedBuild (buttonFrame p p.btnFuel)
  | .pressCode => fixedBuild (buttonFrame p p.btnCode)
  | .pack spec vals => packBuild p spec vals
  | .unpack spec buf => unpackBuild p spec buf

/-- Every operation is the acceptance of its request with its build. -/
theorem exec_eq_accept (i : Instr) (s : State) : exec i s = .next (accept (opcodeOf i) (buildOf s.params i) s) := by
  cases i <;> rfl

/-! ## `step` -/

theorem stepBlock_of_take {env : Nat → Option Event} {s : State} {e : Event} {rest : List Event}
    (h : takeEvent s.phase s.events = some (e, rest)) : stepBlock env s = fire e { s with events := rest } := by
  simp [stepBlock, h]

theorem stepBlock_of_none {env : Nat → Option Event} {s : State} (h : takeEvent s.phase s.events = none) :
    stepBlock env s = .next (s.arrive (env s.arrivals)) := by
  simp [stepBlock, h]

theorem step_of_take {s : State} {e : Event} {rest : List Event} (h : takeEvent s.phase s.events = some (e, rest)) :
    step s = fire e { s with events := rest } := stepBlock_of_take h

theorem step_of_none {s : State} (h : takeEvent s.phase s.events = none) :
    step s = .next (s.arrive (Config.arrival s.arrivals)) := stepBlock_of_none h

theorem fire_req_of_decode {r : Request} {i : Instr} {s : State} (h : decode r = .ok i) :
    fire (.req r) s = exec i s := by
  simp [fire, onRequest, h]

theorem fire_req_of_reserved {r : Request} {s : State} (h : opcodeOfByte r.op = none) :
    fire (.req r) s = .next (refuse .illegalOp s) := by
  simp [fire, onRequest, decode, h]

/-- Everything a request can do: it is refused, or accepted as an operation with its build. -/
theorem onRequest_cases {r : Request} {s t : State} (h : onRequest r s = .next t) :
    t = refuse .illegalOp s ∨ ∃ i, decode r = .ok i ∧ t = accept (opcodeOf i) (buildOf s.params i) s := by
  simp only [onRequest] at h
  split at h
  · next i hi =>
    rw [exec_eq_accept] at h
    cases h
    exact .inr ⟨i, hi, rfl⟩
  · cases h; exact .inl rfl

/-- Everything a step that answers a next state can do: it waits and the environment presents its next event, or one event the phase accepts fires. -/
theorem step_cases {s t : State} (h : step s = .next t) :
    (takeEvent s.phase s.events = none ∧ t = s.arrive (Config.arrival s.arrivals)) ∨
    (∃ r rest, takeEvent s.phase s.events = some (.req r, rest) ∧ s.phase = .idle ∧
      onRequest r { s with events := rest } = .next t) ∨
    (∃ x rest, takeEvent s.phase s.events = some (.rx x, rest) ∧ s.phase = .await ∧
      onRx x { s with events := rest } = .next t) ∨
    (∃ rest, takeEvent s.phase s.events = some (.close, rest) ∧ t = onClose { s with events := rest }) ∨
    (∃ rest, takeEvent s.phase s.events = some (.reset, rest) ∧ t = blockReset { s with events := rest }) := by
  cases ht : takeEvent s.phase s.events with
  | none =>
    rw [step_of_none ht] at h
    cases h
    exact .inl ⟨rfl, rfl⟩
  | some x =>
    obtain ⟨e, rest⟩ := x
    have hr := takeEvent_ready ht
    rw [step_of_take ht] at h
    cases e with
    | req r => exact .inr (.inl ⟨r, rest, rfl, idle_of_req_ready hr, h⟩)
    | rx x => exact .inr (.inr (.inl ⟨x, rest, rfl, await_of_rx_ready hr, h⟩))
    | close => cases h; exact .inr (.inr (.inr (.inl ⟨rest, rfl, rfl⟩)))
    | reset => cases h; exact .inr (.inr (.inr (.inr ⟨rest, rfl, rfl⟩)))

end Sys2Proof.Machine
end

