-- ==== Sys2Proof/Laws/Run.lean ====
section
/-! SUPPORT. The host's run of the machine in an environment, in terms of its step, and the events it presents. -/

namespace Sys2Proof.Machine

open Sys2Proof Sys2Proof.Safety

/-- The machine is the block in the environment of which nothing is known. -/
theorem core_eq_coreIn : Sys2Proof.core = coreIn Config.arrival := rfl

theorem runIn_zero (env : Nat → Option Event) (s : State) : Host.Core.run (coreIn env) 0 s = .next s := rfl

theorem runIn_succ_of_next {env : Nat → Option Event} {k : Nat} {s t : State} (h : stepBlock env s = .next t) :
    Host.Core.run (coreIn env) (k + 1) s = Host.Core.run (coreIn env) k t := by
  simp only [Host.Core.run, h]

theorem run_zero (s : State) : Host.Core.run Sys2Proof.core 0 s = .next s := rfl

theorem run_succ_of_next {k : Nat} {s t : State} (h : step s = .next t) :
    Host.Core.run Sys2Proof.core (k + 1) s = Host.Core.run Sys2Proof.core k t := by
  have h' : Sys2Proof.core.step s = .next t := h
  simp only [Host.Core.run, h']

theorem newEvents_of_none {s : State} (h : takeEvent s.phase s.events = none) :
    newEvents s = (Config.arrival s.arrivals).toList := by
  simp [newEvents, h]

theorem newEvents_of_take {s : State} {e : Event} {rest : List Event} (h : takeEvent s.phase s.events = some (e, rest)) :
    newEvents s = [] := by
  simp [newEvents, h]

end Sys2Proof.Machine
end

