-- ==== Sys2Proof/Tests/Slice0.lean ====
section
/-! SUPPORT. Tests of the model, each on one function or one step, and for each statement with hypotheses a concrete case
that meets them.  The expected values are the spec's own vectors (95_test_vectors.md) or read from the rule named. -/

namespace Sys2Proof.Tests

open Sys2Proof Sys2Proof.Machine Sys2Proof.Safety

/-! ## Small states -/

/-- `IDLE` after reset, the next send answered `o`. -/
def idleWith (o : TxOutcome) : State := { State.reset with txAnswers := [o] }

/-- `IDLE` after reset, with these events at the ports. -/
def idleAt (es : List Event) : State := { State.reset with events := es }

/-- `AWAIT` for an operation with this key, with these events at the ports. -/
def awaitAt (op : Opcode) (k : Byte) (es : List Event) : State :=
  { State.reset with phase := .await, key := some k, ctx := some op, events := es, txAnswers := [.ok] }

/-- `AWAIT` for the first reply of `SETLAP 42`. -/
def awaitLap (es : List Event) : State :=
  { awaitAt .setlap 0x4A es with queue := [[0x4A, 0x32, 0x3F, 0x3A, 0x31, 0x36]] }

/-- The events a step emitted; none if it stopped. -/
def outOf : StepOutcome → List PortEvent
  | .next s => s.out
  | _ => []

/-- One frame sent and answered `TX_OK`. -/
def sentOk (f : Frame) : List PortEvent := [.tx f .ok f]

/-- The six registers, in the order of L3's end states. -/
structure Registers where
  phase : Phase
  closed : Bool
  key : Option Byte
  queue : List Frame
  ctx : Option Opcode
  discards : Nat
deriving DecidableEq, Repr

/-- The registers a step left. -/
def registersOf : StepOutcome → Option Registers
  | .next s => some ⟨s.phase, s.closed, s.key, s.queue, s.ctx, s.discards⟩
  | _ => none

/-- Whether a step stopped with this fault. -/
def faultOf : StepOutcome → Option Fault
  | .fault f => some f
  | _ => none

/-- The result of a decoder that succeeded. -/
def okOf {ε α : Type} : Except ε α → Option α
  | .ok a => some a
  | .error _ => none

/-- The error of a decoder that failed. -/
def errorOf {ε α : Type} : Except ε α → Option ε
  | .error e => some e
  | .ok _ => none

/-- The status reply of L1.1. -/
def statusReply : Frame := [0x3F, 0x3A, 0x3F, 0x3F, 0x3F, 0x3F, 0x3F, 0x3F, 0x30, 0x30, 0x37, 0x36, 0x30, 0x30, 0x38, 0x38]

/-- The Status record of L1.1. -/
def statusRecord : Status :=
  { fuel := ⟨#[15, 15, 15, 15, 15, 15, 0, 0], rfl⟩
    start := 7
    mode := 6
    pit := ⟨#[false, false, false, false, false, false, false, false], rfl⟩
    display := 8 }

/-- The Timer reply of L1.2. -/
def timerReply : Frame := [0x3F, 0x34, 0x32, 0x31, 0x34, 0x33, 0x36, 0x35, 0x38, 0x37, 0x31, 0x38]

/-- L1.3's extended reply, with two unknown bytes before its checksum. -/
def statusExtended : Frame := statusReply.take 15 ++ [0x31, 0x32, 0x3B]

/-- The extended reply with both checksums wrong. -/
def statusExtendedCorrupt : Frame := statusReply.take 15 ++ [0x31, 0x32, 0x3C]

/-- A reply of 17 bytes whose canonical checksum is wrong (L2.5). -/
def statusCorrupt17 : Frame := statusReply.take 15 ++ [0x39, 0x30]

/-- The version reply of L2.4. -/
def versionReply : Frame := [0x30, 0x35, 0x33, 0x33, 0x37, 0x32]

/-! ## Decoding: one word written out for every operation (R80; L2.9 where it lists the request) -/

theorem test_decode_setspeed : decodeTableWord 104 0x00000001_00000008_00000000_01 = some (.setspeed 0 8 1) := by decide

theorem test_decode_setspeed_negative : decodeTableWord 104 0x00000001_00000000_FFFFFFFF_01 = some (.setspeed (-1) 0 1) :=
  by decide

theorem test_decode_setbrake : decodeTableWord 104 0x00000001_00000005_00000002_02 = some (.setbrake 2 5 1) := by decide

theorem test_decode_setfuel : decodeTableWord 104 0x00000010_00000000_00000000_03 = some (.setfuel 0 0 16) := by decide

theorem test_decode_setpos : decodeTableWord 104 0x00000001_00000009_00000000_04 = some (.setpos 0 9 1) := by decide

theorem test_decode_clrpos : decodeTableWord 104 0x00000000_00000000_00000000_05 = some (.clrpos) := by decide

theorem test_decode_setlap : decodeTableWord 104 0x00000000_0000002A_00000000_06 = some (.setlap 42) := by decide

theorem test_decode_ignore : decodeTableWord 104 0x00000000_0000012C_00000000_07 = some (.ignore 300) := by decide

theorem test_decode_reset : decodeTableWord 104 0x00000000_00000000_00000000_08 = some (.reset) := by decide

theorem test_decode_version : decodeTableWord 104 0x00000000_00000000_00000000_09 = some (.version) := by decide

theorem test_decode_request : decodeTableWord 104 0x00000000_00000000_00000000_0A = some (.request) := by decide

theorem test_decode_pressPaceCar : decodeTableWord 104 0x00000000_00000000_00000000_10 = some (.pressPaceCar) :=
  by decide

theorem test_decode_pressStart : decodeTableWord 104 0x00000000_00000000_00000000_11 = some (.pressStart) := by decide

theorem test_decode_pressSpeed : decodeTableWord 104 0x00000000_00000000_00000000_12 = some (.pressSpeed) := by decide

theorem test_decode_pressBrake : decodeTableWord 104 0x00000000_00000000_00000000_13 = some (.pressBrake) := by decide

theorem test_decode_pressFuel : decodeTableWord 104 0x00000000_00000000_00000000_14 = some (.pressFuel) := by decide

theorem test_decode_pressCode : decodeTableWord 104 0x00000000_00000000_00000000_15 = some (.pressCode) := by decide

theorem test_decode_pack :
    okOf (decode { word := 0x20, spec := [.nib, .chk], vals := [.int 5], buf := [0x31] }) =
      some (.pack [.nib, .chk] [.int 5]) := by decide

theorem test_decode_unpack :
    okOf (decode { word := 0x21, spec := [.byte], vals := [.int 5], buf := [0x35, 0x3A] }) =
      some (.unpack [.byte] [0x35, 0x3A]) := by decide

/-- R101: the ends of every reserved range are refused, by the code. -/
theorem test_decode_reserved :
    ∀ b ∈ [(0x00 : Byte), 0x0B, 0x0F, 0x16, 0x1F, 0x22, 0xFF],
      errorOf (decode { word := b.setWidth 104, spec := [], vals := [], buf := [] }) = some (.illegalOp b) := by decide

/-- An operand lane an operation does not use changes nothing (R80). -/
theorem test_decode_ignores_unused_lanes :
    decodeTableWord 104 0xFFFFFFFF_0000002A_FFFFFFFF_06 = some (.setlap 42) := by decide

theorem test_encode_setlap : (encode (.setlap 42)).word = 0x00000000_0000002A_00000000_06#104 := by decide

/-! ## Well-formedness: one ill-formed term for each check -/

theorem test_wellFormed_refuses_empty_string : FieldKind.wellFormed (.str 0) = false := by decide

theorem test_wellFormed_refuses_empty_skip : FieldKind.wellFormed (.skip 0) = false := by decide

theorem test_wellFormed_accepts_one_byte : specWellFormed [.str 1, .skip 1] = true := by decide

theorem test_wellFormed_refuses_pack : Instr.wellFormed (.pack [.nib, .skip 0] [.int 1]) = false := by decide

theorem test_wellFormed_refuses_unpack : Instr.wellFormed (.unpack [.str 0] []) = false := by decide

/-- R8(a): an alphabet base that is no multiple of 16. -/
theorem test_params_refuse_alphabet : Params.valid { cu with nibBase := 0x31 } = false := by decide

/-- R8(b): a tag, and a fixed frame, that begin with `M0`; a fixed frame with no first byte. -/
theorem test_params_refuse_tags :
    Params.valid { cu with tagWord := 0x3F } = false ∧ Params.valid { cu with tagIgnore := 0x3F } = false ∧
      Params.valid { cu with tagButton := 0x3F } = false ∧ Params.valid { cu with resetFrame := [0x3F] } = false ∧
      Params.valid { cu with versionFrame := [] } = false := by decide

/-- R8(c): a status marker that is the wire byte of address 8, and of address 1. -/
theorem test_params_refuse_marker :
    Params.valid { cu with m1 := 0x38 } = false ∧ Params.valid { cu with m1 := 0x31 } = false := by decide

/-- R8(d): a word identifier of six bits, a button identifier of five. -/
theorem test_params_refuse_ids :
    Params.valid { cu with wLapLo := 32 } = false ∧ Params.valid { cu with btnCode := 16 } = false := by decide

/-- D43: a receive bound under 18. -/
theorem test_params_refuse_rxMaxLen :
    Params.valid { cu with rxMaxLen := some 17 } = false ∧
    Params.valid { cu with rxMaxLen := some 18 } = true := by decide

/-! ## Codec (L2.1) -/

theorem test_pack_mixed :
    okOf (pack cu [.lit, .str 3, .byte, .nib, .skip 2, .chk, .nib, .chk]
      [.int 0x41, .bytes [0x61, 0x62, 0x63], .int 200, .int 9, .int 3]) =
      some [0x41, 0x61, 0x62, 0x63, 0x38, 0x3C, 0x39, 0x30, 0x30, 0x34, 0x33, 0x3B] := by decide

theorem test_pack_string_length : errorOf (pack cu [.str 4] [.bytes [0x61, 0x62, 0x63]]) = some (.format .range) :=
  by decide

theorem test_pack_wrong_type : errorOf (pack cu [.nib] [.bytes [0x31]]) = some (.format .range) := by decide

theorem test_pack_count_before_range : errorOf (pack cu [.nib, .nib] [.int 99]) = some (.format .countMismatch) :=
  by decide

theorem test_pack_malformed : errorOf (pack cu [.skip 0] []) = some (.format .malformedSpec) := by decide

theorem test_unpack_checksum_is_the_whole_byte :
    errorOf (unpack cu [.nib, .chk] [0x31, 0x41]) = some (.checksum 1) := by decide

theorem test_unpack_non_alphabet_byte : okOf (unpack cu [.nib, .chk] [0x41, 0x31]) = some [.int 1] := by decide

theorem test_unpack_low_nibble_first : okOf (unpack cu [.byte] [0x35, 0x3A]) = some [.int 0xA5] := by decide

theorem test_unpack_second_checksum_sums_the_first : okOf (unpack cu [.chk, .chk] [0x30, 0x30]) = some [] := by decide

theorem test_unpack_short_before_checksum :
    errorOf (unpack cu statusFmt (statusReply.take 15)) = some (.format .short) := by decide

/-! ## What each operation sends or answers (L2.2 to L2.4), and what it refuses (L2.7) -/

theorem test_setspeed_sends :
    outOf (exec (.setspeed 1 15 1) (idleWith .ok)) = sentOk [0x4A, 0x30, 0x32, 0x3F, 0x31, 0x3C] := by decide

theorem test_setspeed_limits_sends :
    outOf (exec (.setspeed 7 0 15) (idleWith .ok)) = sentOk [0x4A, 0x30, 0x3E, 0x30, 0x3F, 0x37] := by decide

theorem test_setbrake_sends :
    outOf (exec (.setbrake 2 5 1) (idleWith .ok)) = sentOk [0x4A, 0x31, 0x34, 0x35, 0x31, 0x35] := by decide

theorem test_setfuel_sends :
    outOf (exec (.setfuel 5 15 2) (idleWith .ok)) = sentOk [0x4A, 0x32, 0x3A, 0x3F, 0x32, 0x37] := by decide

theorem test_setpos_sends :
    outOf (exec (.setpos 3 1 1) (idleWith .ok)) = sentOk [0x4A, 0x36, 0x36, 0x31, 0x31, 0x38] := by decide

theorem test_clrpos_sends :
    outOf (exec (.clrpos) (idleWith .ok)) = sentOk [0x4A, 0x36, 0x30, 0x30, 0x39, 0x39] := by decide

theorem test_ignore_sends :
    outOf (exec (.ignore 0x5A) (idleWith .ok)) = sentOk [0x3A, 0x3A, 0x35, 0x39] := by decide

theorem test_reset_sends :
    outOf (exec (.reset) (idleWith .ok)) = sentOk [0x3D, 0x31, 0x30] := by decide

theorem test_version_sends :
    outOf (exec (.version) (idleWith .ok)) = sentOk [0x30] := by decide

theorem test_request_sends :
    outOf (exec (.request) (idleWith .ok)) = sentOk [0x3F] := by decide

theorem test_pressPaceCar_sends :
    outOf (exec (.pressPaceCar) (idleWith .ok)) = sentOk [0x54, 0x31] := by decide

theorem test_pressStart_sends :
    outOf (exec (.pressStart) (idleWith .ok)) = sentOk [0x54, 0x32] := by decide

theorem test_pressSpeed_sends :
    outOf (exec (.pressSpeed) (idleWith .ok)) = sentOk [0x54, 0x35] := by decide

theorem test_pressBrake_sends :
    outOf (exec (.pressBrake) (idleWith .ok)) = sentOk [0x54, 0x36] := by decide

theorem test_pressFuel_sends :
    outOf (exec (.pressFuel) (idleWith .ok)) = sentOk [0x54, 0x37] := by decide

theorem test_pressCode_sends :
    outOf (exec (.pressCode) (idleWith .ok)) = sentOk [0x54, 0x38] := by decide

/-- L3 P2: the first frame is sent, the second waits in `queue`. -/
theorem test_setlap_sends_and_queues :
    outOf (exec (.setlap 42) (idleWith .ok)) =
      sentOk [0x4A, 0x31, 0x3F, 0x32, 0x31, 0x3D] ∧
    registersOf (exec (.setlap 42) (idleWith .ok)) =
      some ⟨.await, false, some 0x4A, [[0x4A, 0x32, 0x3F, 0x3A, 0x31, 0x36]], some .setlap, 0⟩ := by decide

theorem test_pack_answers :
    outOf (exec (.pack [.lit, .byte, .nib, .nib, .chk] [.int 0x4A, .int 0, .int 8, .int 1]) State.reset) =
      [.rsp (.ok (.packed [0x4A, 0x30, 0x30, 0x38, 0x31, 0x33]))] := by decide

theorem test_unpack_answers :
    outOf (exec (.unpack [.byte] [0x35, 0x3A]) State.reset) = [.rsp (.ok (.unpacked [.int 165]))] := by decide

theorem test_setspeed_refuses_address : outOf (exec (.setspeed 8 20 1) (idleWith .ok)) = [.rsp (.err 1)] := by decide

theorem test_setbrake_refuses_value : outOf (exec (.setbrake 0 16 1) (idleWith .ok)) = [.rsp (.err 1)] := by decide

theorem test_setfuel_refuses_repeat : outOf (exec (.setfuel 0 0 16) (idleWith .ok)) = [.rsp (.err 2)] := by decide

theorem test_setpos_refuses_zero : outOf (exec (.setpos 0 0 1) (idleWith .ok)) = [.rsp (.err 1)] := by decide

theorem test_setlap_refuses_256 : outOf (exec (.setlap 256) (idleWith .ok)) = [.rsp (.err 1)] := by decide

theorem test_ignore_refuses_300 : outOf (exec (.ignore 300) (idleWith .ok)) = [.rsp (.err 2)] := by decide

theorem test_failed_send_ends_with_timeout :
    registersOf (exec .request (idleWith .timeout)) = some ⟨.idle, false, none, [], none, 0⟩ := by decide

/-- L2.8: after `CLOSE` a mask out of range is reported before the closed transport, and a send is answered `TX_IOERR`. -/
theorem test_closed :
    outOf (exec (.ignore 300) { idleWith .ok with closed := true }) = [.rsp (.err 2)] ∧
      (outOf (exec .reset { idleWith .ok with closed := true })).getLast? = some (.rsp (.err 5)) := by decide

/-! ## Another configuration (R7, R8) -/

/-- A configuration with another alphabet base, word tag and speed word, and two lead bytes (I15, I18). -/
def otherParams : Params := { cu with nibBase := 0x40, tagWord := 0x57, wSpeed := 4, timerLead := 2 }

theorem test_other_params_valid : otherParams.valid = true := by decide

theorem test_configure_refuses :
    State.configure { cu with tagWord := 0x3F } = none ∧
    State.configure { cu with pollFrame := [0x21] } = none := by decide

/-- R215 with another poll frame: all of it is sent, and its first byte is the key. -/
theorem test_other_poll_frame :
    Params.valid { cu with pollFrame := [0x3F, 0x31] } = true ∧
    outOf (exec .request { idleWith .ok with params := { cu with pollFrame := [0x3F, 0x31] } }) = sentOk [0x3F, 0x31] ∧
    registersOf (exec .request { idleWith .ok with params := { cu with pollFrame := [0x3F, 0x31] } }) =
      some ⟨.await, false, some 0x3F, [], some .request, 0⟩ := by decide

/-- R92 with those values: the sum is 7 + 4 + 2 + 15 + 1 = 29. -/
theorem test_other_params_send :
    outOf (exec (.setspeed 1 15 1) { idleWith .ok with params := otherParams }) =
      sentOk [0x57, 0x44, 0x42, 0x4F, 0x41, 0x4D] := by decide

/-- The other reading of C2: a Timer with a marker and a skip byte. -/
theorem test_other_params_timer :
    okOf (classify otherParams
      [0x3F, 0x40, 0x44, 0x40, 0x40, 0x40, 0x40, 0x40, 0x40, 0x41, 0x40, 0x41, 0x45]) =
      some (.timer { address := 3, timestamp := 1, sector := 1 }) := by decide

/-! ## Reply decoding (L2.5, L2.6) -/

theorem test_status : okOf (decodeStatus cu statusReply) = some (.status statusRecord) := by decide

theorem test_status_pit_mask :
    okOf (decodeStatus cu [0x3F, 0x3A, 0x31, 0x32, 0x33, 0x34, 0x35, 0x36, 0x37, 0x38, 0x30, 0x3F, 0x35, 0x3A, 0x36, 0x31]) =
      some (.status
        { fuel := ⟨#[1, 2, 3, 4, 5, 6, 7, 8], rfl⟩
          start := 0
          mode := 15
          pit := ⟨#[true, false, true, false, false, true, false, true], rfl⟩
          display := 6 }) := by decide

/-- L1.3: the extended format, with two unknown bytes before its checksum. -/
theorem test_status_extended :
    okOf (decodeStatus cu statusExtended) = some (.status statusRecord) := by decide

/-- L1.3, C4: an 18-byte reply whose byte 15 is the canonical checksum; byte 17 is wrong and is not looked at. -/
theorem test_status_coincidence :
    okOf (decodeStatus cu (statusReply ++ [0x30, 0x31])) = some (.status statusRecord) := by decide

/-- L2.5: a canonical checksum error on 17 bytes stays a `ChecksumError`. -/
theorem test_status_corrupt :
    errorOf (decodeStatus cu statusCorrupt17) = some (.checksum 15) := by decide

/-- L2.6: a flip of bit 4 of a fuel byte is not detected. -/
theorem test_status_high_bit_flip : okOf (decodeStatus cu (statusReply.set 5 0x2F)) = some (.status statusRecord) :=
  by decide

/-- L1.2, C1: wire address 4 is controller address 3. -/
theorem test_timer :
    okOf (classify cu timerReply) = some (.timer { address := 3, timestamp := 0x12345678, sector := 1 }) := by decide

/-- L2.5: wire address 0 is reported as -1. -/
theorem test_timer_wire_zero :
    okOf (classify cu [0x3F, 0x30, 0x30, 0x30, 0x30, 0x30, 0x33, 0x30, 0x38, 0x3E, 0x31, 0x39]) =
      some (.timer { address := -1, timestamp := 1000, sector := 1 }) := by decide

theorem test_marker_alone : errorOf (classify cu [0x3F]) = some (.format .short) := by decide

theorem test_version :
    okOf (postProcess cu (some .version) versionReply) = some (.version [0x35, 0x33, 0x33, 0x37]) := by decide

theorem test_raw : okOf (postProcess cu (some .setspeed) [0x4A, 0x30]) = some (.raw [0x4A, 0x30]) := by decide

/-! ## One step of the correlator (L2.8, L3) -/

theorem test_step_discards :
    registersOf (step (awaitAt .request 0x3F [.rx (.frame [0x4A, 0x30])])) =
      some ⟨.await, false, some 0x3F, [], some .request, 1⟩ ∧
    outOf (step (awaitAt .request 0x3F [.rx (.frame [0x4A, 0x30])])) = [.diag [0x4A, 0x30]] := by decide

theorem test_step_matches :
    outOf (step (awaitAt .request 0x3F [.rx (.frame statusReply)])) = [.rsp (.ok (.status statusRecord))] ∧
    registersOf (step (awaitAt .request 0x3F [.rx (.frame statusReply)])) =
      some ⟨.idle, false, none, [], none, 0⟩ := by decide

/-- L3 P2: the first reply of `SETLAP` is dropped and the second frame sent. -/
theorem test_step_sends_second_lap_frame :
    outOf (step (awaitLap [.rx (.frame [0x4A])])) =
      sentOk [0x4A, 0x32, 0x3F, 0x3A, 0x31, 0x36] ∧
    registersOf (step (awaitLap [.rx (.frame [0x4A])])) = some ⟨.await, false, some 0x4A, [], some .setlap, 0⟩ :=
  by decide

/-- R181: with nothing the phase accepts the block waits: no register changes, nothing is emitted. -/
theorem test_step_waits :
    outOf (step (awaitLap [.req (encode .reset)])) = [] ∧
    registersOf (step (awaitLap [.req (encode .reset)])) = registersOf (.next (awaitLap [])) := by decide

/-- R34, R181: what the environment presents in a wait comes after what it has presented. -/
theorem test_wait_presents_an_event :
    stepBlock (fun _ => some (.rx .ioerr)) (awaitLap [.req (encode .reset)]) =
      .next { awaitLap [.req (encode .reset), .rx .ioerr] with arrivals := 1 } := rfl

theorem test_step_timeout : outOf (step (awaitLap [.rx (.frame [])])) = [.rsp (.err 4)] := by decide

theorem test_step_receive_error : outOf (step (awaitLap [.rx .ioerr])) = [.rsp (.err 5)] := by decide

theorem test_step_close_in_await :
    registersOf (step (awaitAt .setspeed 0x4A [.close])) = some ⟨.idle, true, none, [], none, 0⟩ := by decide

theorem test_step_close_in_idle : outOf (step (idleAt [.close])) = [] := by decide

theorem test_step_illegal :
    outOf (step (idleAt [.req { word := 0x0B, spec := [], vals := [], buf := [] }])) = [.rsp (.err 6)] := by decide

/-- R31, R34: in `IDLE` a receive event waits and the request after it is taken. -/
theorem test_step_receive_waits_in_idle :
    outOf (step (idleAt [.rx (.frame [0x3F]), .req (encode (.pack [.nib] [.int 5]))])) =
      [.rsp (.ok (.packed [0x35]))] := by decide

theorem test_step_block_reset :
    registersOf (step { awaitLap [.reset] with closed := true, discards := 3 }) =
      some ⟨.idle, false, none, [], none, 0⟩ := by decide

/-- R24: a match that would read `key` while it is `NONE` stops the machine. -/
theorem test_step_fault :
    faultOf (step { awaitAt .request 0x3F [.rx (.frame [0x3F])] with key := none }) = some .keyReadWhileNone :=
  by decide

theorem test_withFetchWord :
    outOf (step ((idleWith .ok).withFetchWord 8 0x11)) = sentOk [0x54, 0x32] := by decide

/-! ## Assembler (R104, R105) -/

theorem test_line_synonym : parseLine "SETWORD.BRAKE 2, 5 ; brake".toList = parseLine "SETBRAKE 2, 5, 1".toList :=
  by decide

theorem test_line_stimulus :
    parseLine "RX 4A 30".toList = some (.event (.rx (.frame [0x4A, 0x30]))) ∧
    parseLine "TX timeout".toList = some (.tx .timeout) ∧
      parseLine "CLOSE".toList = some (.event .close) := by decide

/-! ## Hypotheses met: one case for each statement that has hypotheses, each clause at a boundary -/

theorem witness_UnusedOperandLanesAreIgnored :
    Opcode.clrpos ∈ [Opcode.clrpos, .unpack] ∧ Opcode.setlap ∈ [Opcode.setlap, .ignore] := by decide

/-- A request of one operation code. -/
def codeRequest (w : ReqWord) : Request := { word := w, spec := [], vals := [], buf := [] }

theorem witness_ReservedCodeIsAnsweredIllegalOp :
    (idleAt [.req (codeRequest 0x0B)]).phase = .idle ∧
    takeEvent .idle (idleAt [.req (codeRequest 0x0B)]).events = some (.req (codeRequest 0x0B), []) ∧
    (codeRequest 0x0B).op ∉ tableCodes ∧ (codeRequest 0x00).op ∉ tableCodes ∧
    (codeRequest 0xFF).op ∉ tableCodes := by decide

theorem witness_AlphabetByteCarriesItsNibble :
    cu.alphabetOk = true ∧ 0 < 16 ∧ 15 < 16 := by decide

theorem witness_PackChecksInOrder :
    specWellFormed [.skip 0] = false ∧
    (specWellFormed [.nib, .nib] = true ∧ [Value.int 1].length ≠ arity [.nib, .nib]) ∧
    (specWellFormed [.nib] = true ∧ [Value.int 16].length = arity [.nib] ∧ valuesFit [.nib] [.int 16] = false) ∧
    (specWellFormed [.nib] = true ∧ [Value.int 15].length = arity [.nib] ∧
    valuesFit [.nib] [.int 15] = true) := by decide

theorem witness_UnpackReportsTheFirstError :
    specWellFormed [.str 0] = false ∧
    (specWellFormed [.nib, .chk] = true ∧ [(0x31 : Byte)].length < wireLength [.nib, .chk]) ∧
    (specWellFormed [.nib, .chk] = true ∧ wireLength [.nib, .chk] ≤ [(0x31 : Byte), 0x31].length) := by decide

theorem witness_UnpackOfPackGivesTheValues :
    cu.alphabetOk = true ∧ okOf (pack cu [.byte, .chk] [.int 255]) = some [0x3F, 0x3F, 0x3E] := by decide

theorem witness_ChangedNibbleIsDetected :
    cu.alphabetOk = true ∧ okOf (pack cu [.nib, .chk] [.int 15]) = some [0x3F, 0x3F] ∧
    1 ∈ checksumOffsets [.nib, .chk] 0 ∧
    0 ∉ checksumOffsets [.nib, .chk] 0 ∧ wireVal 0x3E ≠ wireVal (byteAt [0x3F, 0x3F] 0) := by decide

theorem witness_ChangedHighBitsPassUndetected :
    cu.alphabetOk = true ∧ okOf (pack cu [.nib, .chk] [.int 15]) = some [0x3F, 0x3F] ∧
    0 ∉ checksumOffsets [.nib, .chk] 0 ∧ wireVal 0x2F = wireVal (byteAt [0x3F, 0x3F] 0) := by decide

theorem witness_ChangedHighBitsPassUndetected_values :
    ∀ kind ∈ [FieldKind.nib, .chk], kind ≠ .lit ∧ ∀ n, kind ≠ .str n := by simp

theorem witness_TrailingBytesAreIgnored :
    wireLength [.nib, .chk] ≤ [(0x31 : Byte), 0x31].length := by decide

theorem witness_SpeedBrakeAndFuelWritesAreSent :
    (idleWith .ok).params.valid = true ∧ (idleWith .ok).phase = .idle ∧ txOutcome (idleWith .ok) = .ok ∧
    (0 : Word32).toInt = 0 ∧ (7 : Word32).toInt = 7 ∧ (0 : Word32).toInt = 0 ∧ (15 : Word32).toInt = 15 ∧
    (15 : Word32).toInt = 15 := by decide

theorem witness_PositionWriteIsSent :
    (idleWith .ok).params.valid = true ∧ (idleWith .ok).phase = .idle ∧ txOutcome (idleWith .ok) = .ok ∧
    (0 : Word32).toInt = 0 ∧ (7 : Word32).toInt = 7 ∧ (1 : Word32).toInt = 1 ∧ (8 : Word32).toInt = 8 ∧
    (15 : Word32).toInt = 15 := by decide

theorem witness_ClearPositionIsSent :
    (idleWith .ok).params.valid = true ∧ fixedOperandsFit (idleWith .ok).params = true ∧ (idleWith .ok).params = cu ∧
    (idleWith .ok).phase = .idle ∧ txOutcome (idleWith .ok) = .ok := by decide

theorem witness_LapHighNibbleIsSentFirst :
    (idleWith .ok).params.valid = true ∧ fixedOperandsFit (idleWith .ok).params = true ∧
    (idleWith .ok).phase = .idle ∧ txOutcome (idleWith .ok) = .ok ∧
    (0 : Word32).toInt = 0 ∧ (255 : Word32).toInt = 255 := by decide

theorem witness_IgnoreMaskIsSent :
    (idleWith .ok).params.valid = true ∧ fixedOperandsFit (idleWith .ok).params = true ∧
    (idleWith .ok).phase = .idle ∧ txOutcome (idleWith .ok) = .ok ∧
    (0 : Word32).toInt = 0 ∧ (255 : Word32).toInt = 255 := by decide

theorem witness_ResetVersionAndPollAreSent :
    (idleWith .ok).params = cu ∧ (idleWith .ok).phase = .idle ∧ txOutcome (idleWith .ok) = .ok := by decide

theorem witness_ButtonPressesAreSent :
    (idleWith .ok).params = cu ∧ (idleWith .ok).phase = .idle ∧ txOutcome (idleWith .ok) = .ok := by decide

theorem witness_PackIsAnsweredAtOnce :
    State.reset.phase = .idle ∧ specWellFormed [.nib] = true ∧ [Value.int 15].length = arity [.nib] ∧
    valuesFit [.nib] [.int 15] = true := by decide

theorem witness_UnpackIsAnsweredAtOnce :
    State.reset.phase = .idle ∧ specWellFormed [.nib, .chk] = true ∧
    wireLength [.nib, .chk] ≤ [(0x31 : Byte), 0x31].length ∧
    (∀ k ∈ checksumOffsets [.nib, .chk] 0, byteAt [0x31, 0x31] k = checksumByte cu ([(0x31 : Byte), 0x31].take k)) ∧
    (∃ k ∈ checksumOffsets [.nib, .chk] 0, byteAt [0x31, 0x30] k ≠ checksumByte cu ([(0x31 : Byte), 0x30].take k)) :=
  by decide

theorem witness_ValidationErrorCauses :
    (idleWith .ok).phase = .idle ∧ failsValidation (.setspeed 8 0 1) ∧ failsValidation (.setpos 0 9 1) ∧
    failsValidation (.setlap (-1)) := by
  simp [failsValidation, idleWith, State.reset]

theorem witness_FormatErrorCausesBeforeSending :
    (idleWith .ok).params.valid = true ∧ fixedOperandsFit (idleWith .ok).params = true ∧
    (idleWith .ok).phase = .idle ∧ failsFormat (.setfuel 0 0 16) ∧ failsFormat (.ignore 256) ∧
    failsFormat (.pack [.nib] []) ∧
    failsFormat (.unpack [.nib] []) := 
  ⟨by decide, by decide, rfl, ⟨by simp [failsValidation], by decide⟩, by simp [failsFormat], .inr (.inl (by decide)), .inr (by decide)⟩

theorem witness_NothingIsSentOnARefusedRequest :
    State.reset.phase = .idle ∧
    (∃ t, exec (.setlap 256) State.reset = .next t ∧ t.out.getLast? = some (.rsp (.err 1))) ∧
    (∃ t, exec (.ignore 300) State.reset = .next t ∧ t.out.getLast? = some (.rsp (.err 2))) := 
  ⟨rfl, ⟨_, rfl, by decide⟩, ⟨_, rfl, by decide⟩⟩

theorem witness_FailedSendEndsTheOperation :
    (idleWith .timeout).params.valid = true ∧ fixedOperandsFit (idleWith .timeout).params = true ∧
    (idleWith .timeout).phase = .idle ∧
    firstFrame (idleWith .timeout).params (.setspeed 7 15 15) = some [0x4A, 0x30, 0x3E, 0x3F, 0x3F, 0x36] ∧
    txOutcome (idleWith .timeout) = .timeout ∧ txOutcome (idleWith .ioerr) = .ioerr := by decide

theorem witness_SendFollowsItsOutcome :
    ({ idleWith .ok with closed := true } : State).closed = true ∧ txOutcome (idleWith .ok) = .ok ∧
    txOutcome (idleWith .timeout) = .timeout ∧ txOutcome (idleWith .ioerr) = .ioerr := by decide

theorem witness_StepRunsTheDecodedOperation :
    (idleAt [.req (encode (.setlap 42))]).phase = .idle ∧
    takeEvent .idle (idleAt [.req (encode (.setlap 42))]).events = some (.req (encode (.setlap 42)), []) ∧
    okOf (decode (encode (.setlap 42))) = some (.setlap 42) := by decide

theorem witness_FirstAcceptedEventFires :
    (idleAt [.rx .ioerr, .req (encode .reset), .close]).events = [.rx .ioerr] ++ .req (encode .reset) :: [.close] ∧
    (∀ x ∈ [Event.rx .ioerr], eventReady .idle x = false) ∧
    eventReady .idle (.req (encode .reset)) = true := by decide

theorem witness_BlockWaitsWithoutAnEvent :
    (∀ x ∈ (idleAt [.rx .ioerr]).events, eventReady (idleAt [.rx .ioerr]).phase x = false) ∧
    (∀ x ∈ (awaitLap [.req (encode .reset)]).events, eventReady (awaitLap []).phase x = false) := by decide

theorem witness_BlockWaitsWithoutAnEvent_noise :
    (awaitLap [.req (encode .reset)]).phase = .await ∧ (awaitLap [.req (encode .reset)]).key = some 0x4A ∧
    (∀ x ∈ (awaitLap [.req (encode .reset)]).events, eventReady .await x = false) ∧
    ∀ n, ∃ b g, (fun _ : Nat => [(0xCA : Byte)]) n = b :: g ∧ b ≠ 0x4A := 
  ⟨rfl, rfl, by decide, fun _ => ⟨0xCA, [], rfl, by decide⟩⟩

theorem witness_RequestsWaitInAwait :
    (awaitLap [.req (encode .reset), .rx .ioerr]).phase = .await ∧
    ∃ t, step (awaitLap [.req (encode .reset), .rx .ioerr]) = .next t := ⟨rfl, _, rfl⟩

theorem witness_EmptyFrameEndsWithTimeout :
    (awaitLap [.rx (.frame [])]).phase = .await ∧
    takeEvent .await (awaitLap [.rx (.frame [])]).events = some (.rx (.frame []), []) := by decide

theorem witness_ReceiveErrorEndsWithIOError :
    (awaitLap [.rx .ioerr]).phase = .await ∧
    takeEvent .await (awaitLap [.rx .ioerr]).events = some (.rx .ioerr, []) := by decide

theorem witness_NonMatchingFrameIsDiscarded :
    (awaitLap [.rx (.frame [0xCA])]).phase = .await ∧ (awaitLap [.rx (.frame [0xCA])]).key = some 0x4A ∧
    (0xCA : Byte) ≠ 0x4A ∧
    takeEvent .await (awaitLap [.rx (.frame [0xCA])]).events = some (.rx (.frame [0xCA]), []) := by decide

theorem witness_MatchSendsTheQueuedFrame :
    (awaitLap [.rx (.frame [0x4A])]).phase = .await ∧ (awaitLap [.rx (.frame [0x4A])]).key = some 0x4A ∧
    (awaitLap [.rx (.frame [0x4A])]).queue = [0x4A :: [0x32, 0x3F, 0x3A, 0x31, 0x36]] ∧
    takeEvent .await (awaitLap [.rx (.frame [0x4A])]).events = some (.rx (.frame [0x4A]), []) ∧
    txOutcome (awaitLap [.rx (.frame [0x4A])]) = .ok ∧ Inv (awaitLap [.rx (.frame [0x4A])]) := by decide

theorem witness_MatchEndsWithTheDecodedReply :
    (awaitAt .version 0x30 [.rx (.frame [0x30])]).phase = .await ∧ (awaitAt .version 0x30 []).key = some 0x30 ∧
    (awaitAt .version 0x30 []).queue = [] ∧
    takeEvent .await (awaitAt .version 0x30 [.rx (.frame [0x30])]).events = some (.rx (.frame [0x30]), []) ∧
    errorOf (postProcess cu (awaitAt .version 0x30 []).ctx [0x30]) = some (.format .short) ∧
    okOf (postProcess cu (awaitAt .version 0x30 []).ctx versionReply) = some (.version [0x35, 0x33, 0x33, 0x37]) :=
  by decide

theorem witness_UnlawfulRegistersFault :
    (awaitLap [.rx (.frame [0x4A])]).phase = .await ∧
    takeEvent .await (awaitLap [.rx (.frame [0x4A])]).events = some (.rx (.frame [0x4A]), []) ∧
    ({ awaitLap [.rx (.frame [0x4A])] with key := none } : State).key = none ∧ (awaitLap []).key = some 0x4A ∧
    2 ≤ ({ awaitLap [] with queue := [[0x4A], [0x4A]] } : State).queue.length ∧
    ({ awaitLap [] with queue := [[]] } : State).queue = [[]] := by decide

theorem witness_CloseReleasesTheTransport :
    takeEvent (idleAt [.close]).phase (idleAt [.close]).events = some (.close, []) ∧ (idleAt [.close]).phase = .idle ∧
    takeEvent (awaitLap [.close]).phase (awaitLap [.close]).events = some (.close, []) ∧
    (awaitLap [.close]).phase = .await ∧
    failsValidation (.setlap 256) ∧ failsFormat (.ignore 256) ∧ firstFrame (idleAt []).params .version = some [0x30] ∧
    (idleAt []).params.valid = true ∧ fixedOperandsFit (idleAt []).params = true := by
  refine ⟨by decide, by decide, by decide, by decide, ?_, ?_, by decide, by decide, by decide⟩ <;>
    simp [failsValidation, failsFormat]

theorem witness_CloseReleasesTheTransport_codec :
    exec (.pack [.nib] [.int 5]) State.reset = .next (afterAnswer State.reset (.ok (.packed [0x35]))) ∧
    exec (.unpack [.nib] [0x35]) State.reset = .next (afterAnswer State.reset (.ok (.unpacked [.int 5]))) := ⟨rfl, rfl⟩

theorem witness_BlockResetClearsTheRegisters :
    takeEvent (idleAt [.reset]).phase (idleAt [.reset]).events = some (.reset, []) ∧
    takeEvent (awaitLap [.reset]).phase (awaitLap [.reset]).events = some (.reset, []) := by decide

theorem witness_ClassificationByMarker :
    (0x3B : Byte) ≠ cu.m1 ∧ (0x3E : Byte) ≠ cu.m0 ∧ 1 ≤ cu.timerLead := by decide

theorem witness_StatusDecodingTable :
    (statusReply.take 15).length < 16 ∧
    (16 ≤ statusReply.length ∧ byteAt statusReply 15 = checksumByte cu (statusReply.take 15)) ∧
    (18 ≤ statusExtended.length ∧ byteAt statusExtended 15 ≠ checksumByte cu (statusExtended.take 15) ∧
      byteAt statusExtended 17 = checksumByte cu (statusExtended.take 17)) ∧
    (18 ≤ statusExtendedCorrupt.length ∧
    byteAt statusExtendedCorrupt 15 ≠ checksumByte cu (statusExtendedCorrupt.take 15) ∧
      byteAt statusExtendedCorrupt 17 ≠ checksumByte cu (statusExtendedCorrupt.take 17)) ∧
    (16 ≤ statusCorrupt17.length ∧ statusCorrupt17.length < 18 ∧
      byteAt statusCorrupt17 15 ≠ checksumByte cu (statusCorrupt17.take 15)) := by decide

theorem witness_TimerDecodingTable :
    1 ≤ cu.timerLead ∧ 11 = cu.timerLead + 10 ∧ (timerReply.take 11).length < 12 ∧ 12 ≤ timerReply.length ∧
    byteAt timerReply 11 = checksumByte cu (timerReply.take 11) ∧
    byteAt (timerReply.set 11 0x39) 11 ≠ checksumByte cu ((timerReply.set 11 0x39).take 11) := by decide

theorem witness_VersionDecodingTable :
    1 ≤ cu.versionLead ∧ 1 = cu.versionLead ∧ 5 = 1 + 4 ∧ (versionReply.take 5).length < 6 ∧ 6 ≤ versionReply.length ∧
    byteAt versionReply 5 = checksumByte cu (versionReply.take 5) ∧
    byteAt (versionReply.set 5 0x33) 5 ≠ checksumByte cu ((versionReply.set 5 0x33).take 5) := by decide

theorem witness_ResultKindByOperation :
    (∀ s ∈ [awaitAt .request 0x3F [], awaitAt .version 0x30 [], awaitAt .reset 0x3D []], Inv s ∧ s.phase = .await) ∧
    statusReply.head? = (awaitAt .request 0x3F []).key ∧ (awaitAt .request 0x3F []).ctx = some .request ∧
    versionReply.head? = (awaitAt .version 0x30 []).key ∧ (awaitAt .version 0x30 []).ctx = some .version ∧
    [(0x3D : Byte)].head? = (awaitAt .reset 0x3D []).key ∧ (awaitAt .reset 0x3D []).ctx ≠ some .request ∧
    (awaitAt .reset 0x3D []).ctx ≠ some .version ∧
    okOf (classify cu statusReply) = some (.status statusRecord) := by decide

theorem witness_RegistersStayLawful :
    Inv (awaitLap [.rx (.frame [0x4A])]) ∧ ∃ t, step (awaitLap [.rx (.frame [0x4A])]) = .next t := ⟨by decide, _, rfl⟩

theorem witness_LawfulRegistersNeverStop :
    Inv (awaitLap [.rx (.frame [0x4A])]) ∧ Inv (idleAt [.req (encode .reset)]) := by decide

theorem witness_OneResponsePerAcceptedRequest :
    (∀ rest, takeEvent (idleAt [.req (encode (.ignore 300))]).phase (idleAt [.req (encode (.ignore 300))]).events ≠
        some (.reset, rest)) ∧
    ∃ t, step (idleAt [.req (encode (.ignore 300))]) = .next t := 
  ⟨fun _ h => (by cases h), _, rfl⟩

theorem witness_ParametersStayFixed :
    ∃ t, step (awaitLap [.rx (.frame [0x4A])]) = .next t := ⟨_, rfl⟩

theorem witness_ResynchronisationDiscardsExactlyN_none :
    (∀ g ∈ ([] : List Frame), ∃ b g', g = b :: g' ∧ b ≠ 0x3F) ∧
    (awaitAt .request 0x3F [.rx (.frame [0x3F])]).events =
      ([] : List Frame).map (fun g => Event.rx (.frame g)) ++ .rx (.frame (0x3F :: [])) :: [] := by
  refine ⟨?_, rfl⟩
  simp

theorem witness_ResynchronisationDiscardsExactlyN :
    (awaitAt .request 0x3F []).phase = .await ∧ (awaitAt .request 0x3F []).key = some 0x3F ∧
    (awaitAt .request 0x3F []).queue = [] ∧
    (∀ g ∈ [([0x4A, 0x30] : Frame), [0x30]], ∃ b g', g = b :: g' ∧ b ≠ 0x3F) ∧
    (awaitAt .request 0x3F [.rx (.frame [0x4A, 0x30]), .rx (.frame [0x30]), .rx (.frame [0x3F])]).events =
      [([0x4A, 0x30] : Frame), [0x30]].map (fun g => Event.rx (.frame g)) ++ .rx (.frame (0x3F :: [])) :: [] := by
  refine ⟨rfl, rfl, rfl, ?_, rfl⟩
  simp

theorem witness_EmittedEventsStay :
    ∃ t, step (awaitLap [.rx (.frame [0x4A])]) = .next t := ⟨_, rfl⟩

theorem witness_ClosedIsSetByCloseAndClearedByReset :
    ∀ s ∈ [idleAt [.req (encode (.setlap 256))], awaitLap [.rx (.frame [0x54])], idleAt [.close], awaitLap [.reset]],
      (takeEvent s.phase s.events).isSome = true ∧ (registersOf (step s)).isSome = true := by decide

theorem witness_DiscardsCountsDiscardedFrames :
    ∀ s ∈ [idleAt [.req (encode (.setlap 256))], awaitLap [.rx (.frame [0x54])], idleAt [.close], awaitLap [.reset]],
      (takeEvent s.phase s.events).isSome = true ∧ (registersOf (step s)).isSome = true := by decide

end Sys2Proof.Tests
end

section
/-! PROOFS. The registers of 10_state.md: what a send, a request, a receive event and `CLOSE` do to `closed` and
`discards`, and the statements about them. -/

namespace Sys2Proof.Machine

open Sys2Proof Sys2Proof.Safety

/-! ## What a send leaves -/

/-- The state after a failed send (R164): the frame is offered, then the operation ends with `e`. -/
theorem endErr_offer (e : BlockError) (f : Frame) (s : State) :
    endErr e (s.offer f) =
      { s with phase := .idle, key := none, queue := [], ctx := none, txAnswers := s.txAnswers.tail,
               sends := s.sends + 1,
               out := s.out ++ [.tx f (txOutcome s) (lineBytes f s.sends (txOutcome s)),
                 .rsp (.err (errorNumber e))] } := by
  simp [endErr, State.release, State.respond, State.offer]

@[simp] theorem send_closed (f : Frame) (rest : List Frame) (s : State) : (send f rest s).closed = s.closed := by
  obtain ⟨-, h⟩ | ⟨-, h⟩ | ⟨-, h⟩ := send_cases f rest s <;> simp [h]

@[simp] theorem send_discards (f : Frame) (rest : List Frame) (s : State) :
    (send f rest s).discards = s.discards := by
  obtain ⟨-, h⟩ | ⟨-, h⟩ | ⟨-, h⟩ := send_cases f rest s <;> simp [h]

/-- A send emits no `DIAG` event. -/
@[simp] theorem send_countP_isDiscard (f : Frame) (rest : List Frame) (s : State) :
    (send f rest s).out.countP isDiscard = s.out.countP isDiscard := by
  obtain ⟨-, h⟩ | ⟨-, h⟩ | ⟨-, h⟩ := send_cases f rest s <;> simp [h, isDiscard]

/-! ## What a request leaves -/

@[simp] theorem accept_closed (op : Opcode) (b : Build) (s : State) : (accept op b s).closed = s.closed := by
  obtain ⟨-, h⟩ | ⟨-, e, -, h⟩ | ⟨-, r, -, h⟩ | ⟨-, f, rest, -, h⟩ := accept_cases op b s <;> simp [h]

/-- A request that is taken, refused or not, clears `discards` (R162). -/
theorem accept_discards {op : Opcode} {b : Build} {s : State} (hp : s.phase = .idle) :
    (accept op b s).discards = 0 := by
  cases b with
  | fail e => simp [accept_fail hp]
  | done r => simp [accept_done hp]
  | send f rest => simp [accept_send hp]

theorem onRequest_closed {r : Request} {s t : State} (h : onRequest r s = .next t) : t.closed = s.closed := by
  obtain rfl | ⟨i, -, rfl⟩ := onRequest_cases h
  · exact refuse_closed _ _
  · exact accept_closed _ _ _

theorem onRequest_discards {r : Request} {s t : State} (hp : s.phase = .idle) (h : onRequest r s = .next t) :
    t.discards = 0 := by
  obtain rfl | ⟨i, -, rfl⟩ := onRequest_cases h
  · exact refuse_discards _ _
  · exact accept_discards hp

/-! ## What a receive event leaves -/

/-- Everything a receive event can do: it ends the operation with an error or a result, sends the frame in `queue`, or
discards a frame (R166 to R170). -/
theorem onRx_cases {x : RxEvent} {s t : State} (h : onRx x s = .next t) :
    (∃ e, t = endErr e s) ∨ (∃ r, t = endOk r s) ∨ (∃ f, s.queue = [f] ∧ t = send f [] s) ∨
    (∃ f, x = .frame f ∧ t = s.discardFrame f) := by
  cases x with
  | ioerr => cases h; exact .inl ⟨.io, rfl⟩
  | frame f =>
    obtain ⟨-, rfl⟩ | ⟨k, f', -, -, hm⟩ | ⟨b, k, f', -, -, -, rfl⟩ := onFrame_cases h
    · exact .inl ⟨.timeout, rfl⟩
    · obtain ⟨-, rfl⟩ | ⟨b, g, hq, rfl⟩ := onMatch_cases hm
      · cases postProcess s.params s.ctx f with
        | ok r => exact .inr (.inl ⟨r, rfl⟩)
        | error e => exact .inl ⟨e, rfl⟩
      · exact .inr (.inr (.inl ⟨b :: g, hq, rfl⟩))
    · exact .inr (.inr (.inr ⟨f, rfl, rfl⟩))

theorem onRx_closed {x : RxEvent} {s t : State} (h : onRx x s = .next t) : t.closed = s.closed := by
  obtain ⟨e, rfl⟩ | ⟨r, rfl⟩ | ⟨f, -, rfl⟩ | ⟨f, -, rfl⟩ := onRx_cases h
  · exact endErr_closed _ _
  · exact endOk_closed _ _
  · exact send_closed _ _ _
  · exact State.discardFrame_closed _ _

/-- A receive event adds to `discards` what it adds to the `DIAG` events emitted. -/
theorem onRx_discards {x : RxEvent} {s t : State} (h : onRx x s = .next t) :
    t.discards + s.out.countP isDiscard = s.discards + t.out.countP isDiscard := by
  obtain ⟨e, rfl⟩ | ⟨r, rfl⟩ | ⟨f, -, rfl⟩ | ⟨f, -, rfl⟩ := onRx_cases h
  · simp [isDiscard]
  · simp [isDiscard]
  · simp
  · simp [isDiscard, Nat.add_assoc, Nat.add_comm 1]

/-! ## What `CLOSE` leaves -/

@[simp] theorem onClose_closed (s : State) : (onClose s).closed = true := by
  obtain ⟨-, h⟩ | ⟨-, h⟩ := onClose_cases s <;> simp [h]

@[simp] theorem onClose_discards (s : State) : (onClose s).discards = s.discards := by
  obtain ⟨-, h⟩ | ⟨-, h⟩ := onClose_cases s <;> simp [h]

/-! ## The statements -/

/-- Settles O34: each outcome's branch of `send`, with the record update written out. -/
theorem sendFollowsItsOutcome : Obligations.SendFollowsItsOutcome := by
  intro f rest s
  refine ⟨txOutcome_of_closed, fun h => ?_, fun h => ?_, fun h => ?_⟩
  · simp [send_of_ok h, State.await, State.offer, h]
  · refine ⟨Config.sentPrefix s.sends, ?_⟩
    rw [send_of_timeout h, endErr_offer, h]
    rfl
  · refine ⟨Config.sentPrefix s.sends, ?_⟩
    rw [send_of_ioerr h, endErr_offer, h]
    rfl

/-- Settles O59, by the event the step takes. -/
theorem closedIsSetByCloseAndClearedByReset : Obligations.ClosedIsSetByCloseAndClearedByReset := by
  refine ⟨rfl, fun s t e rest ht hs => ?_⟩
  rw [step_of_take ht] at hs
  cases e with
  | req r => exact onRequest_closed (s := { s with events := rest }) hs
  | rx x => exact onRx_closed (s := { s with events := rest }) hs
  | close => cases hs; exact onClose_closed _
  | reset => cases hs; exact blockReset_closed _

/-- Settles O60, by the event the step takes; a request is taken in `IDLE` only, where its acceptance clears the
count. -/
theorem discardsCountsDiscardedFrames : Obligations.DiscardsCountsDiscardedFrames := by
  refine ⟨rfl, fun s t e rest ht hs => ?_⟩
  have hready := takeEvent_ready ht
  rw [step_of_take ht] at hs
  cases e with
  | req r =>
    have hidle : s.phase = .idle := idle_of_req_ready hready
    exact onRequest_discards (s := { s with events := rest }) hidle hs
  | rx x => exact onRx_discards (s := { s with events := rest }) hs
  | close => cases hs; exact onClose_discards _
  | reset => cases hs; exact blockReset_discards _

/-- Settles O47: the reset state's fields, as they are defined. -/
theorem resetValues : Obligations.ResetValues := ⟨rfl, rfl, rfl, rfl, rfl, rfl, rfl, rfl⟩

end Sys2Proof.Machine
end

section
/-! PROOFS. The operation codes of R80's table and the reserved ones (R101), and the step that takes a request with a
reserved code. -/

namespace Sys2Proof.Machine

open Sys2Proof Sys2Proof.Safety

/-! ## Table codes and reserved codes -/

/-- A code the decoder reads is the one R80's table gives the operation. -/
theorem opcodeByte_of_opcodeOfByte {b : Byte} {op : Opcode} (h : opcodeOfByte b = some op) : opcodeByte op = b := by
  unfold opcodeOfByte at h
  split at h <;> cases h
  all_goals next hb => exact BitVec.eq_of_toNat_eq hb.symm

theorem opcodeByte_mem_tableCodes (op : Opcode) : opcodeByte op ∈ tableCodes := by
  cases op <;> decide

theorem opcodeOfByte_eq_none_of_reserved {b : Byte} (h : b ∉ tableCodes) : opcodeOfByte b = none := by
  cases hop : opcodeOfByte b with
  | none => rfl
  | some op => exact absurd (opcodeByte_of_opcodeOfByte hop ▸ opcodeByte_mem_tableCodes op) h

/-! ## The statement -/

/-- Settles O5: the step takes the request, its code is none of the table's, and `refuse` writes `discards` and the
answer only. -/
theorem reservedCodeIsAnsweredIllegalOp : Obligations.ReservedCodeIsAnsweredIllegalOp := by
  intro s r rest hidle htake hreserved
  have hnone : opcodeOfByte r.op = none := opcodeOfByte_eq_none_of_reserved hreserved
  rw [← hidle] at htake
  rw [step_of_take htake, fire_req_of_reserved hnone]
  rfl

end Sys2Proof.Machine
end

section
/-! PROOFS. The codec of 40_codec.md: what one field decodes to, that decoding reads nothing past the wire length, which
checksum error it reports, and that `unpack` inverts `pack`. -/

namespace Sys2Proof.Machine

open Sys2Proof

/-! ## Alphabet bytes and the bytes of a frame -/

/-- The alphabet's base has value 0, so an alphabet byte's value is its nibble (R83). -/
theorem wireVal_nib {p : Params} (hp : p.alphabetOk = true) {v : Nat} (hv : v < 16) : wireVal (nib p v) = v := by
  have hbase : p.nibBase.toNat % 16 = 0 ∧ p.nibBase.toNat + 15 ≤ 255 := by
    simpa [Params.alphabetOk] using hp
  simp only [wireVal, nib, BitVec.toNat_add, BitVec.toNat_ofNat, alphaBase]
  omega

theorem byteAt_append_left {buf : Frame} (extra : Frame) {k : Nat} (h : k < buf.length) :
    byteAt (buf ++ extra) k = byteAt buf k :=
  List.getD_append _ _ _ _ h

theorem byteAt_append_right (out bs : Frame) (j : Nat) : byteAt (out ++ bs) (out.length + j) = byteAt bs j := by
  rw [byteAt, List.getD_append_right _ _ _ _ (Nat.le_add_right _ _), Nat.add_sub_cancel_left, byteAt]

/-! ## Decoding by kind -/

/-- The value a value-taking kind decodes to at offset `k` (R129).  The kinds that give no value stand here with the
empty string as a filler: `decodeFields_of_value` ties only the value-taking kinds to the decoder. -/
def fieldValue (buf : Frame) : FieldKind → Nat → Value
  | .lit, k => .int (byteAt buf k).toNat
  | .str n, k => .bytes ((buf.drop k).take n)
  | .byte, k => .int (valueByteAt buf k)
  | .nib, k => .int (wireVal (byteAt buf k))
  | .skip _, _ => .bytes []
  | .chk, _ => .bytes []

/-- The three kinds of field the codec's functions treat differently. -/
theorem value_or_skip_or_chk (kind : FieldKind) :
    takesValue kind = true ∨ (∃ n, kind = .skip n) ∨ kind = .chk := by
  cases kind <;> simp [takesValue]

theorem decodeFields_of_value {kind : FieldKind} (h : takesValue kind = true) (p : Params) (buf : Frame)
    (ks : FieldSpec) (k : Nat) :
    decodeFields p buf (kind :: ks) k =
      (decodeFields p buf ks (k + kindWidth kind)).map (fieldValue buf kind k :: ·) := by
  cases kind with
  | lit | str n | byte | nib => rfl
  | skip n | chk => cases h

theorem decodeFields_skip (p : Params) (buf : Frame) (n : Nat) (ks : FieldSpec) (k : Nat) :
    decodeFields p buf (.skip n :: ks) k = decodeFields p buf ks (k + n) := rfl

theorem checksumOffsets_of_value {kind : FieldKind} (h : takesValue kind = true) (ks : FieldSpec) (k : Nat) :
    checksumOffsets (kind :: ks) k = checksumOffsets ks (k + kindWidth kind) := by
  cases kind with
  | lit | str n | byte | nib => rfl
  | skip n | chk => cases h

theorem checksumOffsets_skip (n : Nat) (ks : FieldSpec) (k : Nat) :
    checksumOffsets (.skip n :: ks) k = checksumOffsets ks (k + n) := rfl

theorem checksumOffsets_chk (ks : FieldSpec) (k : Nat) :
    checksumOffsets (.chk :: ks) k = k :: checksumOffsets ks (k + 1) := rfl

/-! ## Bytes past the wire length -/

/-- A field that lies within the frame decodes from its own bytes only. -/
theorem fieldValue_append_left {buf : Frame} (extra : Frame) {kind : FieldKind} {k : Nat}
    (h : k + kindWidth kind ≤ buf.length) : fieldValue (buf ++ extra) kind k = fieldValue buf kind k := by
  cases kind with
  | lit | nib =>
    simp only [kindWidth] at h
    simp only [fieldValue, byteAt_append_left extra (show k < buf.length by omega)]
  | byte =>
    simp only [kindWidth] at h
    simp only [fieldValue, valueByteAt, byteAt_append_left extra (show k < buf.length by omega),
      byteAt_append_left extra (show k + 1 < buf.length by omega)]
  | str n =>
    simp only [kindWidth] at h
    have hn : n ≤ (buf.drop k).length := by rw [List.length_drop]; omega
    simp only [fieldValue, List.drop_append_of_le_length (show k ≤ buf.length by omega),
      List.take_append_of_le_length hn]
  | skip n | chk => rfl

/-- R133, from any offset: decoding reads, and sums, nothing past the wire length. -/
theorem decodeFields_append (p : Params) (extra : Frame) {buf : Frame} {spec : FieldSpec} {k : Nat}
    (h : k + wireLength spec ≤ buf.length) : decodeFields p (buf ++ extra) spec k = decodeFields p buf spec k := by
  induction spec generalizing k with
  | nil => rfl
  | cons kind ks ih =>
    rw [wireLength_cons] at h
    have hrest : decodeFields p (buf ++ extra) ks (k + kindWidth kind) =
        decodeFields p buf ks (k + kindWidth kind) := ih (by omega)
    obtain hval | ⟨n, rfl⟩ | rfl := value_or_skip_or_chk kind
    · rw [decodeFields_of_value hval, decodeFields_of_value hval, hrest,
        fieldValue_append_left extra (by omega)]
    · exact hrest
    · have hk : k < buf.length := by simp only [kindWidth] at h; omega
      simp only [kindWidth] at hrest
      simp only [decodeFields, byteAt_append_left extra hk, List.take_append_of_le_length hk.le, hrest]

/-! ## The first checksum that differs -/

/-- R134, from any offset: decoding answers one value per value-taking kind, every checksum agreeing, or the error of the
first checksum that differs. -/
theorem decodeFields_cases (p : Params) (buf : Frame) (spec : FieldSpec) (k : Nat) :
    (∃ vs, decodeFields p buf spec k = .ok vs ∧ vs.length = arity spec ∧
      ∀ i ∈ checksumOffsets spec k, byteAt buf i = checksumByte p (buf.take i)) ∨
    (∃ i ∈ checksumOffsets spec k, decodeFields p buf spec k = .error (.checksum i) ∧
      byteAt buf i ≠ checksumByte p (buf.take i) ∧
      ∀ j ∈ checksumOffsets spec k, j < i → byteAt buf j = checksumByte p (buf.take j)) := by
  induction spec generalizing k with
  | nil => exact .inl ⟨[], rfl, rfl, fun i hi => by cases hi⟩
  | cons kind ks ih =>
    obtain hval | ⟨n, rfl⟩ | rfl := value_or_skip_or_chk kind
    · rw [decodeFields_of_value hval, checksumOffsets_of_value hval, arity_cons_of_value hval]
      obtain ⟨vs, hok, hlen, hagree⟩ | ⟨i, hi, herr, hne, hfirst⟩ := ih (k + kindWidth kind)
      · exact .inl ⟨fieldValue buf kind k :: vs, by rw [hok]; rfl, by rw [List.length_cons, hlen], hagree⟩
      · exact .inr ⟨i, hi, by rw [herr]; rfl, hne, hfirst⟩
    · rw [decodeFields_skip, checksumOffsets_skip, arity_cons_of_noValue rfl]
      exact ih (k + n)
    · rw [checksumOffsets_chk, arity_cons_of_noValue rfl]
      by_cases hk : byteAt buf k = checksumByte p (buf.take k)
      · rw [decodeFields_chk_of_eq hk]
        obtain ⟨vs, hok, hlen, hagree⟩ | ⟨i, hi, herr, hne, hfirst⟩ := ih (k + 1)
        · exact .inl ⟨vs, hok, hlen, List.forall_mem_cons.2 ⟨hk, hagree⟩⟩
        · exact .inr ⟨i, List.mem_cons_of_mem _ hi, herr, hne, List.forall_mem_cons.2 ⟨fun _ => hk, hfirst⟩⟩
      · refine .inr ⟨k, List.mem_cons_self, decodeFields_chk_of_ne hk, hk, fun j hj hlt => ?_⟩
        have hle : k ≤ j := (checksumOffsets_bounds (spec := .chk :: ks) hj).1
        omega

/-! ## Decoding what was emitted -/

theorem emitFields_of_value {kind : FieldKind} (h : takesValue kind = true) (p : Params) (ks : FieldSpec) (v : Value)
    (vs : List Value) (out : Frame) :
    emitFields p (kind :: ks) (v :: vs) out = emitFields p ks vs (out ++ encodeValue p kind v) := by
  cases kind with
  | lit | str n | byte | nib => rfl
  | skip n | chk => cases h

theorem emitFields_skip (p : Params) (n : Nat) (ks : FieldSpec) (vs : List Value) (out : Frame) :
    emitFields p (.skip n :: ks) vs out = emitFields p ks vs (out ++ List.replicate n p.padByte) := rfl

theorem emitFields_chk (p : Params) (ks : FieldSpec) (vs : List Value) (out : Frame) :
    emitFields p (.chk :: ks) vs out = emitFields p ks vs (out ++ [checksumByte p out]) := rfl

/-- A value that fits a kind emits exactly the kind's wire bytes. -/
theorem encodeValue_length (p : Params) {kind : FieldKind} {v : Value} (h : valueFits kind v = true) :
    (encodeValue p kind v).length = kindWidth kind := by
  cases kind with
  | skip n | chk => cases v <;> cases h
  | lit | byte | nib =>
    cases v with
    | int i => rfl
    | bytes s => cases h
  | str n =>
    cases v with
    | int i => cases h
    | bytes s => simpa [valueFits, encodeValue, kindWidth] using h

/-- A field decodes the same wherever the frame places it. -/
theorem fieldValue_append_right (out bs : Frame) (kind : FieldKind) :
    fieldValue (out ++ bs) kind out.length = fieldValue bs kind 0 := by
  have hat : byteAt (out ++ bs) out.length = byteAt bs 0 := byteAt_append_right out bs 0
  cases kind with
  | lit | nib => simp only [fieldValue, hat]
  | byte => simp only [fieldValue, valueByteAt, hat, byteAt_append_right]
  | str n => simp only [fieldValue, List.drop_left, List.drop_zero]
  | skip n | chk => rfl

/-- R136 for one field: what a fitting value emits decodes to that value. -/
theorem fieldValue_encodeValue {p : Params} (hp : p.alphabetOk = true) {kind : FieldKind} {v : Value}
    (h : valueFits kind v = true) : fieldValue (encodeValue p kind v) kind 0 = v := by
  cases kind with
  | skip n | chk => cases v <;> cases h
  | str n =>
    cases v with
    | int i => cases h
    | bytes s =>
      have hlen : s.length = n := by simpa [valueFits] using h
      simp [fieldValue, encodeValue, ← hlen]
  | lit =>
    cases v with
    | bytes s => cases h
    | int i =>
      have hrange : 0 ≤ i ∧ i ≤ 255 := by simpa [valueFits] using h
      simp only [fieldValue, encodeValue, byteAt, List.getD_cons_zero, BitVec.toNat_ofInt, Value.int.injEq]
      omega
  | byte =>
    cases v with
    | bytes s => cases h
    | int i =>
      have hrange : 0 ≤ i ∧ i ≤ 255 := by simpa [valueFits] using h
      have hlow : wireVal (nib p (i.toNat % 16)) = i.toNat % 16 := wireVal_nib hp (by omega)
      have hhigh : wireVal (nib p (i.toNat / 16 % 16)) = i.toNat / 16 % 16 := wireVal_nib hp (by omega)
      simp only [fieldValue, encodeValue, valueByteAt, byteAt, List.getD_cons_zero, List.getD_cons_succ, hlow, hhigh,
        Value.int.injEq]
      omega
  | nib =>
    cases v with
    | bytes s => cases h
    | int i =>
      have hrange : 0 ≤ i ∧ i ≤ 15 := by simpa [valueFits] using h
      have hnib : wireVal (nib p i.toNat) = i.toNat := wireVal_nib hp (by omega)
      simp only [fieldValue, encodeValue, byteAt, List.getD_cons_zero, hnib, Value.int.injEq]
      omega

/-- In a frame that holds a fitting value's bytes after `out`, the field there decodes to the value. -/
theorem fieldValue_of_emitted {p : Params} (hp : p.alphabetOk = true) {kind : FieldKind} {v : Value}
    (h : valueFits kind v = true) (out rest : Frame) :
    fieldValue (out ++ encodeValue p kind v ++ rest) kind out.length = v := by
  rw [fieldValue_append_left rest (by rw [List.length_append, encodeValue_length p h]), fieldValue_append_right,
    fieldValue_encodeValue hp h]

/-- In a frame that holds a checksum byte after `out`, the checksum there agrees. -/
theorem byteAt_of_checksum_emitted (p : Params) (out rest : Frame) :
    byteAt (out ++ [checksumByte p out] ++ rest) out.length =
      checksumByte p ((out ++ [checksumByte p out] ++ rest).take out.length) := by
  rw [List.append_assoc, List.take_left]
  exact byteAt_append_right out _ 0

/-- Values that match a spec's arity and begin with a value-taking kind have a first value; it fits the kind, and the rest
match the rest of the spec. -/
theorem exists_cons_of_valuesFit {kind : FieldKind} (hval : takesValue kind = true) {ks : FieldSpec}
    {vals : List Value} (hn : vals.length = arity (kind :: ks)) (hfit : valuesFit (kind :: ks) vals = true) :
    ∃ v vs, vals = v :: vs ∧ valueFits kind v = true ∧ vs.length = arity ks ∧ valuesFit ks vs = true := by
  rw [arity_cons_of_value hval] at hn
  obtain ⟨v, vs, rfl⟩ := List.exists_cons_of_length_eq_add_one hn
  rw [valuesFit_cons_of_value hval, Bool.and_eq_true] at hfit
  obtain ⟨hv, hvs⟩ := hfit
  exact ⟨v, vs, rfl, hv, Nat.succ.inj hn, hvs⟩

/-- Emission adds exactly the wire length of the spec (R125). -/
theorem emitFields_length (p : Params) {spec : FieldSpec} {vals : List Value} (hn : vals.length = arity spec)
    (hfit : valuesFit spec vals = true) (out : Frame) :
    (emitFields p spec vals out).length = out.length + wireLength spec := by
  induction spec generalizing vals out with
  | nil => rfl
  | cons kind ks ih =>
    obtain hval | ⟨n, rfl⟩ | rfl := value_or_skip_or_chk kind
    · obtain ⟨v, vs, rfl, hv, hlen, hvs⟩ := exists_cons_of_valuesFit hval hn hfit
      rw [emitFields_of_value hval, ih hlen hvs, List.length_append, encodeValue_length p hv, wireLength_cons,
        Nat.add_assoc]
    · rw [arity_cons_of_noValue rfl] at hn
      rw [valuesFit_cons_of_noValue rfl] at hfit
      rw [emitFields_skip, ih hn hfit, List.length_append, List.length_replicate, wireLength_cons, kindWidth,
        Nat.add_assoc]
    · rw [arity_cons_of_noValue rfl] at hn
      rw [valuesFit_cons_of_noValue rfl] at hfit
      rw [emitFields_chk, ih hn hfit, List.length_append, List.length_singleton, wireLength_cons, kindWidth,
        Nat.add_assoc]

/-- R136, after any bytes `out`: decoding from the end of `out` gives the emitted values back. -/
theorem decodeFields_emitFields {p : Params} (hp : p.alphabetOk = true) {spec : FieldSpec} {vals : List Value}
    (hn : vals.length = arity spec) (hfit : valuesFit spec vals = true) (out : Frame) :
    decodeFields p (emitFields p spec vals out) spec out.length = .ok vals := by
  induction spec generalizing vals out with
  | nil => rw [List.eq_nil_of_length_eq_zero hn]; rfl
  | cons kind ks ih =>
    obtain hval | ⟨n, rfl⟩ | rfl := value_or_skip_or_chk kind
    · obtain ⟨v, vs, rfl, hv, hlen, hvs⟩ := exists_cons_of_valuesFit hval hn hfit
      have hrest := ih hlen hvs (out ++ encodeValue p kind v)
      obtain ⟨new, hnew⟩ := emitFields_append p ks vs (out ++ encodeValue p kind v)
      rw [List.length_append, encodeValue_length p hv, hnew] at hrest
      rw [emitFields_of_value hval, decodeFields_of_value hval, hnew, hrest, fieldValue_of_emitted hp hv]
      rfl
    · rw [arity_cons_of_noValue rfl] at hn
      rw [valuesFit_cons_of_noValue rfl] at hfit
      have hrest := ih hn hfit (out ++ List.replicate n p.padByte)
      rwa [List.length_append, List.length_replicate, ← emitFields_skip] at hrest
    · rw [arity_cons_of_noValue rfl] at hn
      rw [valuesFit_cons_of_noValue rfl] at hfit
      have hrest := ih hn hfit (out ++ [checksumByte p out])
      obtain ⟨new, hnew⟩ := emitFields_append p ks vals (out ++ [checksumByte p out])
      rw [List.length_append, List.length_singleton, hnew] at hrest
      rw [emitFields_chk, hnew, decodeFields_chk_of_eq (byteAt_of_checksum_emitted p out new), hrest]

/-! ## The statements -/

/-- Settles O16: what `pack` emits is long enough for the spec, and decoding it from offset 0 gives the values. -/
theorem unpackOfPackGivesTheValues : Obligations.UnpackOfPackGivesTheValues := by
  intro p hp spec vals f hpack
  obtain ⟨hw, hn, hfit, rfl⟩ := pack_eq_ok hpack
  have hlen : wireLength spec ≤ (emitFields p spec vals []).length := by
    rw [emitFields_length p hn hfit, List.length_nil, Nat.zero_add]
  rw [unpack_of_long hw hlen]
  exact decodeFields_emitFields hp hn hfit []

/-- Settles O15: the spec's check, the length's check, then what decoding from offset 0 can answer. -/
theorem unpackReportsTheFirstError : Obligations.UnpackReportsTheFirstError := by
  intro p spec buf
  refine ⟨unpack_of_malformed, unpack_of_short, fun hw hlen => ?_⟩
  rw [unpack_of_long hw hlen]
  exact decodeFields_cases p buf spec 0

/-- Settles O19: of a malformed spec both frames answer the same error, and of a well-formed one decoding reads only the
bytes within the wire length. -/
theorem trailingBytesAreIgnored : Obligations.TrailingBytesAreIgnored := by
  intro p spec buf extra hlen
  cases hw : specWellFormed spec with
  | false => rw [unpack_of_malformed hw, unpack_of_malformed hw]
  | true =>
    have hlonger : wireLength spec ≤ (buf ++ extra).length := by rw [List.length_append]; omega
    rw [unpack_of_long hw hlonger, unpack_of_long hw hlen]
    exact decodeFields_append p extra (by omega)

end Sys2Proof.Machine
end

section
/-! PROOFS. The reply decoders of 41_session.md (R172 to R179): what a format with one closing checksum unpacks to, the
records read from a frame's offsets, the classification by the leading bytes, and what a matched reply is decoded to. -/

namespace Sys2Proof.Machine

open Sys2Proof Sys2Proof.Safety

/-! ## Formats closed by one checksum -/

/-- The values a spec without checksums decodes to from offset `k`, one per value-taking kind (R129). -/
def fieldValues (buf : Frame) : FieldSpec → Nat → List Value
  | [], _ => []
  | kind :: ks, k =>
    if takesValue kind then fieldValue buf kind k :: fieldValues buf ks (k + kindWidth kind)
    else fieldValues buf ks (k + kindWidth kind)

theorem fieldValues_of_value {kind : FieldKind} (h : takesValue kind = true) (buf : Frame) (ks : FieldSpec) (k : Nat) :
    fieldValues buf (kind :: ks) k = fieldValue buf kind k :: fieldValues buf ks (k + kindWidth kind) := by
  simp [fieldValues, h]

theorem fieldValues_skip (buf : Frame) (n : Nat) (ks : FieldSpec) (k : Nat) :
    fieldValues buf (.skip n :: ks) k = fieldValues buf ks (k + n) := rfl

/-- Decoding fields that end in their only checksum: that one comparison decides. -/
theorem decodeFields_closed (p : Params) (buf : Frame) {ks : FieldSpec} (hks : .chk ∉ ks) (k : Nat) :
    decodeFields p buf (ks ++ [.chk]) k =
      if byteAt buf (k + wireLength ks) = checksumByte p (buf.take (k + wireLength ks)) then
        .ok (fieldValues buf ks k)
      else .error (.checksum (k + wireLength ks)) := by
  induction ks generalizing k with
  | nil => rfl
  | cons kind ks ih =>
    obtain ⟨hkind, htail⟩ : .chk ≠ kind ∧ .chk ∉ ks := by simpa using hks
    have hrest := ih htail (k + kindWidth kind)
    rw [Nat.add_assoc, ← wireLength_cons] at hrest
    obtain hval | ⟨n, rfl⟩ | rfl := value_or_skip_or_chk kind
    · rw [List.cons_append, decodeFields_of_value hval, hrest, fieldValues_of_value hval]
      split <;> rfl
    · exact hrest
    · exact absurd rfl hkind

@[simp] theorem wireLength_closed (ks : FieldSpec) : wireLength (ks ++ [.chk]) = wireLength ks + 1 := by
  simp [wireLength, kindWidth]

@[simp] theorem specWellFormed_closed (ks : FieldSpec) : specWellFormed (ks ++ [.chk]) = specWellFormed ks := by
  simp [specWellFormed, FieldKind.wellFormed]

section
variable {ks : FieldSpec} {f : Frame} (p : Params) (hw : specWellFormed ks = true)
include hw

theorem unpack_closed_of_short (hlen : f.length < wireLength ks + 1) :
    unpack p (ks ++ [.chk]) f = .error (.format .short) :=
  unpack_of_short (by rwa [specWellFormed_closed]) (by rwa [wireLength_closed])

/-- On a frame long enough for its spec, `unpack` answers what decoding from offset 0 answers. -/
theorem unpack_closed_of_long (hks : .chk ∉ ks) (hlen : wireLength ks + 1 ≤ f.length) :
    unpack p (ks ++ [.chk]) f =
      if byteAt f (wireLength ks) = checksumByte p (f.take (wireLength ks)) then .ok (fieldValues f ks 0)
      else .error (.checksum (wireLength ks)) := by
  rw [unpack_of_long (by rwa [specWellFormed_closed]) (by rwa [wireLength_closed]), decodeFields_closed p f hks,
    Nat.zero_add]

theorem unpack_closed_of_differs (hks : .chk ∉ ks) (hlen : wireLength ks + 1 ≤ f.length)
    (hsum : byteAt f (wireLength ks) ≠ checksumByte p (f.take (wireLength ks))) :
    unpack p (ks ++ [.chk]) f = .error (.checksum (wireLength ks)) := by
  rw [unpack_closed_of_long p hw hks hlen, if_neg hsum]

theorem unpack_closed_of_agrees (hks : .chk ∉ ks) (hlen : wireLength ks + 1 ≤ f.length)
    (hsum : byteAt f (wireLength ks) = checksumByte p (f.take (wireLength ks))) :
    unpack p (ks ++ [.chk]) f = .ok (fieldValues f ks 0) := by
  rw [unpack_closed_of_long p hw hks hlen, if_pos hsum]

end

/-! ## Status -/

/-- The fields of the extended status reply before its checksum (R97). -/
def statusFieldsX : FieldSpec := statusFields ++ [.skip statusExtra]

theorem statusFmtX_eq : statusFmtX = statusFieldsX ++ [.chk] := rfl

/-- The values of the two status formats are the same: the extended one only skips more bytes (R97). -/
theorem fieldValues_statusFieldsX (f : Frame) : fieldValues f statusFieldsX 0 = fieldValues f statusFields 0 := rfl

theorem intAt_fuel (f : Frame) (i : Fin fuelSlots) :
    intAt (fieldValues f statusFields 0) i.val = (wireVal (byteAt f (2 + i.val)) : Nat) := by
  fin_cases i <;> rfl

/-- R175: the record of a status reply's values is the one R96's offsets give. -/
theorem statusRec_fieldValues (f : Frame) : statusRec (fieldValues f statusFields 0) = statusOfBytes f := by
  have hstart : intAt (fieldValues f statusFields 0) 8 = (wireVal (byteAt f 10) : Nat) := rfl
  have hmode : intAt (fieldValues f statusFields 0) 9 = (wireVal (byteAt f 11) : Nat) := rfl
  have hpit : intAt (fieldValues f statusFields 0) 10 = (valueByteAt f 12 : Nat) := rfl
  have hdisplay : intAt (fieldValues f statusFields 0) 11 = (wireVal (byteAt f 14) : Nat) := rfl
  simp only [statusRec, statusOfBytes, intAt_fuel, hstart, hmode, hpit, hdisplay, BitVec.ofInt_natCast,
    Int.toNat_natCast, valueByteAt]

theorem decodeStatus_of_short {p : Params} {f : Frame} (hlen : f.length < 16) :
    decodeStatus p f = .error (.format .short) := by
  have hunpack : unpack p statusFmt f = .error (.format .short) := unpack_closed_of_short p rfl hlen
  simp only [decodeStatus, hunpack]

theorem decodeStatus_of_agrees {p : Params} {f : Frame} (hlen : 16 ≤ f.length)
    (hsum : byteAt f 15 = checksumByte p (f.take 15)) : decodeStatus p f = .ok (.status (statusOfBytes f)) := by
  have hunpack : unpack p statusFmt f = .ok (fieldValues f statusFields 0) :=
    unpack_closed_of_agrees p rfl (by decide) hlen hsum
  simp only [decodeStatus, hunpack, statusRec_fieldValues]

/-- R174: after the canonical format's checksum error the extended format is tried, and a `FormatError` of it leaves the
first error. -/
theorem decodeStatus_of_differs {p : Params} {f : Frame} (hlen : 16 ≤ f.length)
    (hsum : byteAt f 15 ≠ checksumByte p (f.take 15)) :
    decodeStatus p f =
      if f.length < 18 then .error (.checksum 15)
      else if byteAt f 17 = checksumByte p (f.take 17) then .ok (.status (statusOfBytes f))
      else .error (.checksum 17) := by
  have hcanonical : unpack p statusFmt f = .error (.checksum 15) :=
    unpack_closed_of_differs p rfl (by decide) hlen hsum
  by_cases hshort : f.length < 18
  · have hextended : unpack p statusFmtX f = .error (.format .short) := by
      rw [statusFmtX_eq]
      exact unpack_closed_of_short p rfl hshort
    simp only [decodeStatus, hcanonical, hextended, if_pos hshort]
  · have hextended : unpack p statusFmtX f =
        if byteAt f 17 = checksumByte p (f.take 17) then .ok (fieldValues f statusFieldsX 0)
        else .error (.checksum 17) := by
      rw [statusFmtX_eq]
      exact unpack_closed_of_long p rfl (by decide) (Nat.le_of_not_lt hshort)
    rw [if_neg hshort]
    by_cases hsumX : byteAt f 17 = checksumByte p (f.take 17)
    · rw [if_pos hsumX] at hextended ⊢
      simp only [decodeStatus, hcanonical, hextended, fieldValues_statusFieldsX, statusRec_fieldValues]
    · rw [if_neg hsumX] at hextended ⊢
      simp only [decodeStatus, hcanonical, hextended]

/-- Settles O49: one clause per outcome of the canonical format, and of the extended one after its checksum error. -/
theorem statusDecodingTable : Obligations.StatusDecodingTable := by
  intro p f
  refine ⟨decodeStatus_of_short, decodeStatus_of_agrees, fun hlen hsum hsumX => ?_, fun hlen hsum hsumX => ?_,
    fun hlen hshort hsum => ?_⟩
  · rw [decodeStatus_of_differs (by omega) hsum, if_neg (by omega), if_pos hsumX]
  · rw [decodeStatus_of_differs (by omega) hsum, if_neg (by omega), if_neg hsumX]
  · rw [decodeStatus_of_differs hlen hsum, if_pos hshort]

/-! ## Timer -/

/-- The fields of a timer reply before its checksum (R98). -/
def timerFields (lead : Nat) : FieldSpec := .skip lead :: .nib :: (wordField ++ [.nib])

theorem timerFmt_eq (p : Params) : timerFmt p = timerFields p.timerLead ++ [.chk] := rfl

@[simp] theorem wireLength_timerFields (lead : Nat) : wireLength (timerFields lead) = lead + 10 := rfl

theorem specWellFormed_timerFields {lead : Nat} (h : 1 ≤ lead) : specWellFormed (timerFields lead) = true := by
  simp [timerFields, wordField, FieldKind.wellFormed, h]

theorem chk_notMem_timerFields (lead : Nat) : .chk ∉ timerFields lead := by
  simp [timerFields, wordField]

theorem fieldValues_timerFields (f : Frame) (lead : Nat) :
    fieldValues f (timerFields lead) 0 =
      [.int (wireVal (byteAt f lead)), .int (valueByteAt f (lead + 1)), .int (valueByteAt f (lead + 3)),
        .int (valueByteAt f (lead + 5)), .int (valueByteAt f (lead + 7)), .int (wireVal (byteAt f (lead + 9)))] := by
  rw [timerFields, fieldValues_skip, Nat.zero_add]
  rfl

/-- R130: the four bytes of the timestamp combined, as a word. -/
theorem ofInt_combineBytes_natCast (a b c d : Nat) :
    BitVec.ofInt 32 (combineBytes a b c d) = BitVec.ofNat 32 (a * 2 ^ 24 + b * 2 ^ 16 + c * 2 ^ 8 + d) := by
  rw [← BitVec.ofInt_natCast, combineBytes]
  push_cast
  rfl

/-- R176: the record of a timer reply's values is the one R98's places give. -/
theorem timerRec_fieldValues (f : Frame) (lead : Nat) :
    timerRec (fieldValues f (timerFields lead) 0) = timerOfBytes lead f := by
  have htimestamp := ofInt_combineBytes_natCast (valueByteAt f (lead + 1)) (valueByteAt f (lead + 3))
    (valueByteAt f (lead + 5)) (valueByteAt f (lead + 7))
  have hsector := BitVec.ofInt_natCast 4 (wireVal (byteAt f (lead + 9)))
  rw [fieldValues_timerFields]
  exact congrArg₂ (Timer.mk _) htimestamp hsector

theorem decodeTimer_of_short {p : Params} {f : Frame} (hlead : 1 ≤ p.timerLead)
    (hlen : f.length < p.timerLead + 10 + 1) : decodeTimer p f = .error (.format .short) := by
  have hunpack := unpack_closed_of_short p (specWellFormed_timerFields hlead) hlen
  simp only [decodeTimer, timerFmt_eq, hunpack]

/-- Settles O50: the three outcomes of the one timer format. -/
theorem timerDecodingTable : Obligations.TimerDecodingTable := by
  rintro p n f hlead rfl
  have hw := specWellFormed_timerFields hlead
  have hchk := chk_notMem_timerFields p.timerLead
  refine ⟨decodeTimer_of_short hlead, fun hlen hsum => ?_, fun hlen hsum => ?_⟩
  · have hunpack := unpack_closed_of_differs p hw hchk hlen hsum
    simp only [decodeTimer, timerFmt_eq, hunpack, wireLength_timerFields]
  · have hunpack := unpack_closed_of_agrees p hw hchk hlen hsum
    simp only [decodeTimer, timerFmt_eq, hunpack, timerRec_fieldValues]

/-! ## Version -/

/-- The fields of a version reply before its checksum (R99). -/
def versionFields (lead : Nat) : FieldSpec := [.skip lead, .str versionLen]

theorem versionFmt_eq (p : Params) : versionFmt p = versionFields p.versionLead ++ [.chk] := rfl

@[simp] theorem wireLength_versionFields (lead : Nat) : wireLength (versionFields lead) = lead + 4 := rfl

theorem specWellFormed_versionFields {lead : Nat} (h : 1 ≤ lead) : specWellFormed (versionFields lead) = true := by
  simp [versionFields, FieldKind.wellFormed, h]

theorem chk_notMem_versionFields (lead : Nat) : .chk ∉ versionFields lead := by
  simp [versionFields]

theorem take_succ_drop_eq_byteAt_cons {f : Frame} {k : Nat} (n : Nat) (h : k < f.length) :
    (f.drop k).take (n + 1) = byteAt f k :: (f.drop (k + 1)).take n := by
  rw [List.drop_eq_getElem_cons h, List.take_succ_cons, byteAt, List.getD_eq_getElem _ _ h]

/-- R179: the identifier is the four bytes from the lead on, as received. -/
theorem versionId_fieldValues {f : Frame} {lead : Nat} (hlen : lead + 4 ≤ f.length) :
    versionId (fieldValues f (versionFields lead) 0) =
      [byteAt f lead, byteAt f (lead + 1), byteAt f (lead + 2), byteAt f (lead + 3)] := by
  have hid : versionId (fieldValues f (versionFields lead) 0) = (f.drop lead).take 4 := by
    rw [versionFields, fieldValues_skip, Nat.zero_add]
    rfl
  rw [hid, take_succ_drop_eq_byteAt_cons 3 (by omega), take_succ_drop_eq_byteAt_cons 2 (by omega),
    take_succ_drop_eq_byteAt_cons 1 (by omega), take_succ_drop_eq_byteAt_cons 0 (by omega), List.take_zero]

/-- Settles O51: the three outcomes of the one version format. -/
theorem versionDecodingTable : Obligations.VersionDecodingTable := by
  rintro p k n f hlead rfl rfl
  have hw := specWellFormed_versionFields hlead
  have hchk := chk_notMem_versionFields p.versionLead
  refine ⟨fun hlen => ?_, fun hlen hsum => ?_, fun hlen hsum => ?_⟩
  · have hunpack := unpack_closed_of_short p hw hlen
    simp only [decodeVersion, versionFmt_eq, hunpack]
  · have hunpack := unpack_closed_of_differs p hw hchk hlen hsum
    simp only [decodeVersion, versionFmt_eq, hunpack, wireLength_versionFields]
  · have hunpack := unpack_closed_of_agrees p hw hchk hlen hsum
    simp only [decodeVersion, versionFmt_eq, hunpack, versionId_fieldValues (Nat.le_of_succ_le hlen)]

/-! ## Classification and post-processing -/

/-- Settles O48: the branches of `classify`; the one-byte frame is shorter than any timer reply. -/
theorem classificationByMarker : Obligations.ClassificationByMarker := by
  intro p
  refine ⟨fun f => classify_of_status, fun b f hb => classify_of_generic hb, fun b f hb => classify_of_neither hb,
    classify_of_markerOnly, fun hlead => ?_⟩
  rw [classify_of_markerOnly]
  exact decodeTimer_of_short hlead (by simp)

/-- A frame with the generic marker is decoded, to a Status or a Timer, or raises an error; it is never returned raw. -/
theorem classify_of_m0_eq_ok {p : Params} {f : Frame} {r : Result} (h : classify p (p.m0 :: f) = .ok r) :
    (∃ st, r = .status st) ∨ (∃ tm, r = .timer tm) := by
  cases f with
  | nil =>
    rw [classify_of_markerOnly] at h
    exact .inr (decodeTimer_eq_ok h)
  | cons b f =>
    by_cases hb : b = p.m1
    · subst hb
      rw [classify_of_status] at h
      exact .inl (decodeStatus_eq_ok h)
    · rw [classify_of_generic hb] at h
      exact .inr (decodeTimer_eq_ok h)

/-- R178: an unrecognised reply to `VERSION` is decoded as a version reply. -/
theorem postProcess_version_of_neither {p : Params} {b : Byte} {f : Frame} (h : b ≠ p.m0) :
    postProcess p (some .version) (b :: f) = decodeVersion p (b :: f) := by
  simp [postProcess, classify_of_neither h]

/-! ## The key of the operation served -/

theorem tagsOk_of_valid {p : Params} (h : p.valid = true) : p.tagsOk = true := by
  simp_all [Params.valid]

theorem pollFrame_head_of_valid {p : Params} (h : p.valid = true) : p.pollFrame.head? = some p.m0 := by
  simp_all [Params.valid, Params.pollOk]

theorem ne_of_firstByteDiffers {b x : Byte} {g : Frame} (h : firstByteDiffers b g = true) (hx : g.head? = some x) :
    x ≠ b := by
  cases g with
  | nil => cases h
  | cons y g =>
    cases hx
    simpa [firstByteDiffers] using h

/-- R8(b): the key of an operation other than the poll is not the generic marker. -/
theorem commandKey_ne_m0 {p : Params} (htags : p.tagsOk = true) {op : Opcode} (hop : op ≠ .request) {b : Byte}
    (hb : commandKey p op = some b) : b ≠ p.m0 := by
  obtain ⟨hword, hignore, hbutton, hreset, hversion⟩ :
      p.tagWord ≠ p.m0 ∧ p.tagIgnore ≠ p.m0 ∧ p.tagButton ≠ p.m0 ∧
        firstByteDiffers p.m0 p.resetFrame = true ∧ firstByteDiffers p.m0 p.versionFrame = true := by
    simpa [Params.tagsOk, and_assoc] using htags
  cases op with
  | setspeed | setbrake | setfuel | setpos | clrpos | setlap => cases hb; exact hword
  | ignore => cases hb; exact hignore
  | pressPaceCar | pressStart | pressSpeed | pressBrake | pressFuel | pressCode => cases hb; exact hbutton
  | reset => exact ne_of_firstByteDiffers hreset hb
  | version => exact ne_of_firstByteDiffers hversion hb
  | request => exact absurd rfl hop
  | pack | unpack => cases hb

/-- Settles O52: the key is the served operation's first byte, the generic marker for the poll and for no other
operation, and it is the first byte of the frame. -/
theorem resultKindByOperation : Obligations.ResultKindByOperation := by
  rintro s f ⟨hvalid, -, hawait⟩ hphase hmatch
  obtain ⟨-, hsome, hkey, -⟩ := hawait hphase
  obtain ⟨b, hb⟩ := Option.isSome_iff_exists.1 hsome
  obtain ⟨f, rfl⟩ := List.head?_eq_some_iff.1 (hmatch.trans hb)
  obtain ⟨op, hctx, hop⟩ := Option.bind_eq_some_iff.1 (hkey.symm.trans hb)
  have hm0 : op ≠ .request → b ≠ s.params.m0 := fun h => commandKey_ne_m0 (tagsOk_of_valid hvalid) h hop
  rw [hctx]
  refine ⟨fun hreq => ?_, fun hver => ?_, fun hreq hver => ?_⟩
  · cases hreq
    have hbm0 : b = s.params.m0 := Option.some.inj (hop.symm.trans (pollFrame_head_of_valid hvalid))
    rw [postProcess_of_ne_version (by decide), hbm0]
    exact ⟨rfl, fun r => classify_of_m0_eq_ok⟩
  · cases hver
    exact postProcess_version_of_neither (hm0 (by decide))
  · rw [postProcess_of_ne_version hver]
    exact classify_of_neither (hm0 fun h => hreq (congrArg some h))

end Sys2Proof.Machine
end

section
/-! PROOFS. The receive events of 41_session.md (R166 to R168, R170): the step in `AWAIT` that takes one, and the run
through frames that do not match to the one that does (R180). -/

namespace Sys2Proof.Machine

open Sys2Proof Sys2Proof.Safety

/-! ## The step that takes a receive event -/

theorem step_of_take_rx {s : State} {x : RxEvent} {rest : List Event} (hp : s.phase = .await)
    (h : takeEvent .await s.events = some (.rx x, rest)) : step s = onRx x { s with events := rest } :=
  step_of_take (e := .rx x) (by rwa [hp])

theorem endErr_eq_afterEnd (e : BlockError) (s : State) : endErr e s = afterEnd s (.err (errorNumber e)) := rfl

theorem endOk_eq_afterEnd (r : Result) (s : State) : endOk r s = afterEnd s (.ok r) := rfl

/-- The step that takes a frame whose first byte differs from the key discards it (R168). -/
theorem step_of_noMatch {s : State} {b k : Byte} {f : Frame} {rest : List Event} (hp : s.phase = .await)
    (hk : s.key = some k) (hb : b ≠ k) (h : takeEvent .await s.events = some (.rx (.frame (b :: f)), rest)) :
    step s = .next (State.discardFrame (b :: f) { s with events := rest }) := by
  rw [step_of_take_rx hp h, onRx_frame, onFrame_of_noMatch (s := { s with events := rest }) hk hb]

/-- The step that takes a match with nothing left to send ends the operation with what post-processing gives (R170). -/
theorem step_of_match {s : State} {k : Byte} {f : Frame} {rest : List Event} (hp : s.phase = .await)
    (hk : s.key = some k) (hq : s.queue = []) (h : takeEvent .await s.events = some (.rx (.frame (k :: f)), rest)) :
    step s = .next (finish { s with events := rest } (postProcess s.params s.ctx (k :: f))) := by
  rw [step_of_take_rx hp h, onRx_frame, onFrame_of_match (s := { s with events := rest }) hk,
    onMatch_of_empty (s := { s with events := rest }) hq]

/-! ## The statements about one event -/

/-- Settles O39: the timeout indication's branch of `onFrame`. -/
theorem emptyFrameEndsWithTimeout : Obligations.EmptyFrameEndsWithTimeout := by
  intro s rest hp h
  rw [step_of_take_rx hp h, onRx_frame, onFrame_nil, endErr_eq_afterEnd]
  rfl

/-- Settles O40: the receive error's branch of `onRx`. -/
theorem receiveErrorEndsWithIOError : Obligations.ReceiveErrorEndsWithIOError := by
  intro s rest hp h
  rw [step_of_take_rx hp h, onRx_ioerr, endErr_eq_afterEnd]
  rfl

/-- Settles O41: the discarding branch of `onFrame`. -/
theorem nonMatchingFrameIsDiscarded : Obligations.NonMatchingFrameIsDiscarded := by
  intro s b k f rest hp hk hb h
  rw [step_of_noMatch hp hk hb h]
  rfl

/-- Settles O43: `finish` of a result and of an error. -/
theorem matchEndsWithTheDecodedReply : Obligations.MatchEndsWithTheDecodedReply := by
  intro s k f rest hp hk hq h
  rw [step_of_match hp hk hq h]
  refine ⟨fun r hr => ?_, fun e he => ?_⟩
  · rw [hr, finish_ok, endOk_eq_afterEnd]
  · rw [he, finish_error, endErr_eq_afterEnd]

/-! ## Resynchronisation -/

/-- The state after the frames `noise` were discarded, with the events `rest` left (R168, once per frame). -/
def afterDiscards (noise : List Frame) (rest : List Event) (s : State) : State :=
  { s with discards := s.discards + noise.length, events := rest, out := s.out ++ noise.map PortEvent.diag }

theorem afterDiscards_nil (s : State) : afterDiscards [] s.events s = s := by
  simp [afterDiscards]

/-- Discarding one frame and then others is discarding them all. -/
theorem afterDiscards_discardFrame (g : Frame) (noise : List Frame) (es rest : List Event) (s : State) :
    afterDiscards noise rest (State.discardFrame g { s with events := es }) = afterDiscards (g :: noise) rest s := by
  simp [afterDiscards, State.discardFrame, Nat.add_assoc, Nat.add_comm 1]

/-- R168 and R180: frames that do not match, first in the events, are discarded one per step. -/
theorem run_of_noise {k : Byte} {noise : List Frame} (hnoise : ∀ g ∈ noise, ∃ b g', g = b :: g' ∧ b ≠ k)
    (tail : List Event) (m : Nat) {s : State} (hp : s.phase = .await) (hk : s.key = some k)
    (he : s.events = noise.map (fun g => Event.rx (.frame g)) ++ tail) :
    Host.Core.run Sys2Proof.core (noise.length + m) s =
      Host.Core.run Sys2Proof.core m (afterDiscards noise tail s) := by
  induction noise generalizing s with
  | nil =>
    obtain rfl : s.events = tail := he
    rw [afterDiscards_nil, List.length_nil, Nat.zero_add]
  | cons g noise ih =>
    obtain ⟨⟨b, g', rfl, hb⟩, hrest⟩ := List.forall_mem_cons.1 hnoise
    have htake : takeEvent .await s.events =
        some (.rx (.frame (b :: g')), noise.map (fun g => Event.rx (.frame g)) ++ tail) := by
      rw [he]
      exact takeEvent_of_ready rfl
    rw [List.length_cons, Nat.add_right_comm, run_succ_of_next (step_of_noMatch hp hk hb htake),
      ih hrest (by exact hp) (by exact hk) rfl, afterDiscards_discardFrame]

/-- Settles O57: the frames that do not match are discarded one by one, and the match after them ends the operation. -/
theorem resynchronisationDiscardsExactlyN : Obligations.ResynchronisationDiscardsExactlyN := by
  intro s k noise f rest hp hk hq hnoise he
  have hstep := step_of_match (s := afterDiscards noise (.rx (.frame (k :: f)) :: rest) s) hp hk hq
    (takeEvent_of_ready rfl)
  rw [run_of_noise hnoise _ 1 hp hk he, run_succ_of_next hstep, run_zero]
  simp only [afterDiscards]
  cases postProcess s.params s.ctx (k :: f) with
  | ok r => rfl
  | error e => rfl

end Sys2Proof.Machine
end

section
/-! PROOFS. The refusals of 60_exceptions.md: which builds answer an error before any send, and which operands
validation refuses (R200, R242). -/

namespace Sys2Proof.Machine

open Sys2Proof Sys2Proof.Safety

/-! ## The requests answered an error with nothing sent -/

@[simp] theorem send_sends (f : Frame) (rest : List Frame) (s : State) : (send f rest s).sends = s.sends + 1 := by
  obtain ⟨-, h⟩ | ⟨-, h⟩ | ⟨-, h⟩ := send_cases f rest s <;> simp [h]

theorem refuse_eq_afterAnswer (e : BlockError) (s : State) : refuse e s = afterAnswer s (.err (errorNumber e)) := rfl

theorem afterAnswer_inj {s : State} {r r' : Response} : afterAnswer s r = afterAnswer s r' ↔ r = r' := by
  simp [afterAnswer]

/-- A send that is made counts, so it leaves no state that only an answer leaves. -/
theorem send_ne_afterAnswer (f : Frame) (rest : List Frame) (op : Opcode) (s : State) (r : Response) :
    send f rest (s.clearDiscards.serve op) ≠ afterAnswer s r := by
  intro h
  have hsends : s.sends + 1 = s.sends := by simpa [afterAnswer] using congrArg State.sends h
  omega

/-- In `IDLE` an operation answers `ERR(code)` with nothing sent exactly when its build fails with an error of that code
(R162). -/
theorem exec_eq_err_iff {i : Instr} {s : State} (hp : s.phase = .idle) (code : Byte) :
    exec i s = .next (afterAnswer s (.err code)) ↔ ∃ e, buildOf s.params i = .fail e ∧ errorNumber e = code := by
  rw [exec_eq_accept, Host.Outcome.next.injEq]
  cases buildOf s.params i with
  | fail e => simp [accept_fail hp, refuse_eq_afterAnswer, afterAnswer_inj]
  | done r =>
    have hanswer : s.clearDiscards.respond (.ok r) = afterAnswer s (.ok r) := rfl
    simp [accept_done hp, hanswer, afterAnswer_inj]
  | send f rest => simp [accept_send hp, send_ne_afterAnswer]

/-- Code 1 is `ValidationError`'s alone (R241). -/
theorem errorNumber_eq_one_iff {e : BlockError} : errorNumber e = 1 ↔ ∃ c, e = .validation c := by
  cases e <;> simp [errorNumber]

/-! ## Computations that validation stops -/

/-- `x` ends with a `ValidationError`. -/
def RaisesValidation {α : Type} (x : Except BlockError α) : Prop := ∃ c, x = .error (.validation c)

@[simp] theorem not_raisesValidation_pure {α : Type} (a : α) :
    ¬ RaisesValidation (pure a : Except BlockError α) := nofun

/-- A sequence ends with a `ValidationError` in its first part, or in what follows it. -/
@[simp] theorem raisesValidation_bind {α β : Type} (x : Except BlockError α) (f : α → Except BlockError β) :
    RaisesValidation (x >>= f) ↔ RaisesValidation x ∨ ∃ a, x = .ok a ∧ RaisesValidation (f a) := by
  cases x with
  | error e => simp [RaisesValidation, bind, Except.bind]
  | ok a => simp [RaisesValidation, bind, Except.bind]

/-- Packing raises a `FormatError` only (R123). -/
@[simp] theorem not_raisesValidation_pack (p : Params) (spec : FieldSpec) (vals : List Value) :
    ¬ RaisesValidation (pack p spec vals) := by
  rintro ⟨c, h⟩
  obtain ⟨c', hc⟩ := pack_eq_error h
  cases hc

@[simp] theorem not_raisesValidation_wordWrite (p : Params) (word addr : Nat) (v r : Int) :
    ¬ RaisesValidation (wordWrite p word addr v r) := not_raisesValidation_pack _ _ _

@[simp] theorem not_raisesValidation_ignoreFrame (p : Params) (mask : Int) :
    ¬ RaisesValidation (ignoreFrame p mask) := not_raisesValidation_pack _ _ _

/-- Unpacking raises a `FormatError` or a `ChecksumError` only (R128, R131). -/
theorem not_raisesValidation_unpack (p : Params) (spec : FieldSpec) (buf : Frame) :
    ¬ RaisesValidation (unpack p spec buf) := by
  rintro ⟨c, h⟩
  cases hw : specWellFormed spec with
  | false => rw [unpack_of_malformed hw] at h; cases h
  | true =>
    obtain hlen | hlen := Nat.lt_or_ge buf.length (wireLength spec)
    · rw [unpack_of_short hw hlen] at h; cases h
    · rw [unpack_of_long hw hlen] at h
      obtain ⟨j, hj⟩ := decodeFields_eq_error h
      cases hj

/-! ## The checks of R200 -/

theorem chkAddr_eq_ok_iff {a : Int} {u : Unit} : chkAddr a = .ok u ↔ 0 ≤ a ∧ a ≤ 7 := by
  unfold chkAddr; split <;> simp [*]

theorem raisesValidation_chkAddr {a : Int} : RaisesValidation (chkAddr a) ↔ ¬(0 ≤ a ∧ a ≤ 7) := by
  unfold chkAddr; split <;> simp [RaisesValidation, *]

theorem raisesValidation_chkNval {v : Int} : RaisesValidation (chkNval v) ↔ ¬(0 ≤ v ∧ v ≤ 15) := by
  unfold chkNval; split <;> simp [RaisesValidation, *]

theorem raisesValidation_chkPos {v : Int} : RaisesValidation (chkPos v) ↔ ¬(1 ≤ v ∧ v ≤ 8) := by
  unfold chkPos; split <;> simp [RaisesValidation, *]

theorem raisesValidation_chkLap {v : Int} : RaisesValidation (chkLap v) ↔ ¬(0 ≤ v ∧ v ≤ 255) := by
  unfold chkLap; split <;> simp [RaisesValidation, *]

/-! ## The builds that validation stops -/

/-- The build fails with a `ValidationError`. -/
def Build.FailsValidation (b : Build) : Prop := ∃ c, b = .fail (.validation c)

theorem failsValidation_sendBuild (x : Except BlockError (Frame × List Frame)) :
    (sendBuild x).FailsValidation ↔ RaisesValidation x := by
  cases x <;> simp [sendBuild, Build.FailsValidation, RaisesValidation]

theorem not_failsValidation_fixedBuild (f : Frame) : ¬ (fixedBuild f).FailsValidation := nofun

/-- R206 to R209: a word-write is stopped by its address or by its value, whatever its repeat count. -/
theorem failsValidation_wordWriteBuild (p : Params) (word : Nat) (chkValue : Int → Except BlockError Unit)
    (a v r : Int) :
    (wordWriteBuild p word chkValue a v r).FailsValidation ↔
      ¬(0 ≤ a ∧ a ≤ 7) ∨ RaisesValidation (chkValue v) := by
  simp only [wordWriteBuild, failsValidation_sendBuild, raisesValidation_bind, raisesValidation_chkAddr,
    chkAddr_eq_ok_iff, not_raisesValidation_wordWrite, not_raisesValidation_pure, exists_const, and_false, or_false]
  tauto

theorem not_failsValidation_clrposBuild (p : Params) : ¬ (clrposBuild p).FailsValidation := by
  simp [clrposBuild, failsValidation_sendBuild, -bind_pure_comp]

/-- R211: `SETLAP` is stopped by its lap; its two word-writes raise no `ValidationError`. -/
theorem failsValidation_setlapBuild (p : Params) (v : Int) :
    (setlapBuild p v).FailsValidation ↔ RaisesValidation (chkLap v) := by
  simp [setlapBuild, failsValidation_sendBuild, -bind_pure_comp]

theorem not_failsValidation_ignoreBuild (p : Params) (v : Int) : ¬ (ignoreBuild p v).FailsValidation := by
  simp [ignoreBuild, failsValidation_sendBuild, -bind_pure_comp]

theorem not_failsValidation_packBuild (p : Params) (spec : FieldSpec) (vals : List Value) :
    ¬ (packBuild p spec vals).FailsValidation := by
  have hpack := not_raisesValidation_pack p spec vals
  unfold packBuild
  cases h : pack p spec vals with
  | ok f => nofun
  | error e => simpa [h, RaisesValidation, Build.FailsValidation] using hpack

theorem not_failsValidation_unpackBuild (p : Params) (spec : FieldSpec) (buf : Frame) :
    ¬ (unpackBuild p spec buf).FailsValidation := by
  have hunpack := not_raisesValidation_unpack p spec buf
  unfold unpackBuild
  cases h : unpack p spec buf with
  | ok vs => nofun
  | error e => simpa [h, RaisesValidation, Build.FailsValidation] using hunpack

/-- R242: the build of an operation fails with a `ValidationError` for exactly the listed operands. -/
theorem failsValidation_buildOf (p : Params) (i : Instr) : (buildOf p i).FailsValidation ↔ failsValidation i := by
  cases i with
  | setspeed a v r | setbrake a v r | setfuel a v r =>
    exact (failsValidation_wordWriteBuild ..).trans (or_congr_right raisesValidation_chkNval)
  | setpos a v r => exact (failsValidation_wordWriteBuild ..).trans (or_congr_right raisesValidation_chkPos)
  | setlap v => exact (failsValidation_setlapBuild ..).trans raisesValidation_chkLap
  | clrpos => exact iff_of_false (not_failsValidation_clrposBuild p) id
  | ignore v => exact iff_of_false (not_failsValidation_ignoreBuild p v.toInt) id
  | reset | version | request | pressPaceCar | pressStart | pressSpeed | pressBrake | pressFuel | pressCode =>
    exact iff_of_false (not_failsValidation_fixedBuild _) id
  | pack spec vals => exact iff_of_false (not_failsValidation_packBuild p spec vals) id
  | unpack spec buf => exact iff_of_false (not_failsValidation_unpackBuild p spec buf) id

/-! ## The statement -/

/-- Settles O30: the answer is `ERR(1)` exactly when the build fails with a `ValidationError`, which the operands
decide. -/
theorem validationErrorCauses : Obligations.ValidationErrorCauses := by
  intro i s hp
  calc exec i s = .next (afterAnswer s (.err 1))
      ↔ ∃ e, buildOf s.params i = .fail e ∧ errorNumber e = 1 := exec_eq_err_iff hp 1
    _ ↔ (buildOf s.params i).FailsValidation := by
      simp only [errorNumber_eq_one_iff, Build.FailsValidation]
      constructor
      · rintro ⟨e, hb, c, rfl⟩
        exact ⟨c, hb⟩
      · rintro ⟨c, hb⟩
        exact ⟨_, hb, c, rfl⟩
    _ ↔ failsValidation i := failsValidation_buildOf s.params i

end Sys2Proof.Machine
end

section
/-! PROOFS. The request encoding of 30_encoding.md: the decoder reads every operation back (R80, R104), ignores the
lanes an operation does not use, and takes exactly the codes of the table; the assembler's words and the spelled
formats. -/

namespace Sys2Proof.Machine

open Sys2Proof Sys2Proof.Safety

/-! ## The fields of a request -/

@[simp] theorem wordRequest_op (op : Opcode) (a v r : Word32) : (wordRequest op a v r).op = opcodeByte op :=
  requestWord_op op a v r

@[simp] theorem wordRequest_a (op : Opcode) (a v r : Word32) : (wordRequest op a v r).a = a := requestWord_a op a v r

@[simp] theorem wordRequest_v (op : Opcode) (a v r : Word32) : (wordRequest op a v r).v = v := requestWord_v op a v r

@[simp] theorem wordRequest_r (op : Opcode) (a v r : Word32) : (wordRequest op a v r).r = r := requestWord_r op a v r

/-! ## Decoding -/

@[simp] theorem opcodeOfByte_opcodeByte (op : Opcode) : opcodeOfByte (opcodeByte op) = some op := by
  cases op <;> rfl

/-- A request whose code is an operation's decodes to that operation, with the lanes it uses. -/
theorem decode_of_op {r : Request} {op : Opcode} (h : r.op = opcodeByte op) : decode r = .ok (instrOf r op) := by
  simp [decode, h]

theorem decode_wordRequest (op : Opcode) (a v r : Word32) :
    decode (wordRequest op a v r) = .ok (instrOf (wordRequest op a v r) op) :=
  decode_of_op (wordRequest_op op a v r)

/-- Every operation's request carries the operation's code. -/
theorem encode_op (i : Instr) : (encode i).op = opcodeByte (opcodeOf i) := by
  cases i <;> exact requestWord_op _ _ _ _

/-- The lanes of an operation's request are the operation's operands. -/
theorem instrOf_encode (i : Instr) : instrOf (encode i) (opcodeOf i) = i := by
  cases i with
  | setspeed a v r | setbrake a v r | setfuel a v r | setpos a v r =>
    simp only [encode, opcodeOf, instrOf, wordRequest_a, wordRequest_v, wordRequest_r]
  | setlap v | ignore v => simp only [encode, opcodeOf, instrOf, wordRequest_v]
  | clrpos | reset | version | request => rfl
  | pressPaceCar | pressStart | pressSpeed | pressBrake | pressFuel | pressCode => rfl
  | pack spec vals => rfl
  | unpack spec buf => rfl

/-- Settles O1: the request carries the operation's code, which selects the operation, and holds its operands. -/
theorem decodeOfEncodeIsTheOperation : Obligations.DecodeOfEncodeIsTheOperation := by
  intro i
  rw [decode_of_op (encode_op i), instrOf_encode]

/-- Settles O2: the decoded operation is read from the code and from no unused lane. -/
theorem unusedOperandLanesAreIgnored : Obligations.UnusedOperandLanesAreIgnored := by
  intro a v r a' r'
  refine ⟨fun op hop v' => ?_, fun op hop => ?_⟩
  · rw [decode_wordRequest, decode_wordRequest]
    fin_cases hop <;> simp only [instrOf, wordRequest]
  · rw [decode_wordRequest, decode_wordRequest]
    fin_cases hop <;> simp only [instrOf, wordRequest_v]

/-- Settles O3: a code of the table selects an operation, and the code of an operation stands in the table. -/
theorem onlyTableCodesAreOperations : Obligations.OnlyTableCodesAreOperations := by
  intro b
  have htable : ∀ c ∈ tableCodes, (opcodeOfByte c).isSome = true := by decide
  refine ⟨fun h => ?_, htable b⟩
  obtain ⟨op, hop⟩ := Option.isSome_iff_exists.1 h
  exact opcodeByte_of_opcodeOfByte hop ▸ opcodeByte_mem_tableCodes op

/-- Settles O4: each listed word is evaluated. -/
theorem writtenOutWordsDecode : Obligations.WrittenOutWordsDecode := by
  unfold Obligations.WrittenOutWordsDecode
  decide

/-! ## The assembler -/

/-- Settles O6: each listed line is evaluated. -/
theorem assembledLinesAreTheListedWords : Obligations.AssembledLinesAreTheListedWords := by
  unfold Obligations.AssembledLinesAreTheListedWords
  decide

/-- Settles O7: each spelling is evaluated. -/
theorem spelledFormatsAreTheFormats : Obligations.SpelledFormatsAreTheFormats := by
  unfold Obligations.SpelledFormatsAreTheFormats
  decide

end Sys2Proof.Machine
end

section
/-! PROOFS. The parameters of 00_scope.md (R7, R8, R29): the defaults, the check a block is built after, and the free
assignment of the mode-bit names (D27). -/

namespace Sys2Proof.Machine

open Sys2Proof Sys2Proof.Safety

theorem cu_valid : cu.valid = true := by decide

/-- Settles O8: the default values pass each check. -/
theorem defaultParametersAreValid : Obligations.DefaultParametersAreValid :=
  ⟨cu_valid, by rw [State.configure, if_pos cu_valid]; rfl⟩

/-- Settles O9: the two branches of `State.configure`. -/
theorem blockIsBuiltWithValidParameters : Obligations.BlockIsBuiltWithValidParameters := by
  intro p s
  by_cases hvalid : p.valid = true
  · simp [State.configure, hvalid, eq_comm]
  · simp [State.configure, hvalid]

/-- Settles O11, for each of the four assignments. -/
theorem modeBitNamesMeetTheirConstraint : Obligations.ModeBitNamesMeetTheirConstraint := by
  rintro ⟨fuelIsBit1, pitIsBit0⟩
  cases fuelIsBit1 <;> cases pitIsBit0 <;> decide

/-- Settles O12: R83's rule for alphabet bytes. -/
theorem alphabetByteCarriesItsNibble : Obligations.AlphabetByteCarriesItsNibble := fun _ hp _ hv => wireVal_nib hp hv

end Sys2Proof.Machine
end

section
/-! PROOFS. More of the codec of 40_codec.md: the checksum as a byte sum (R122), the order of `pack`'s checks (R123),
and which changes of one byte a checksum detects (R137). -/

namespace Sys2Proof.Machine

open Sys2Proof Sys2Proof.Safety

/-! ## The checksum's sum -/

/-- Settles O13: reducing each byte mod 16 before the sum does not change the sum mod 16. -/
theorem checksumIsTheByteSumMod16 : Obligations.ChecksumIsTheByteSumMod16 := by
  intro p bs
  have hvals : bs.map wireVal = (bs.map BitVec.toNat).map (· % 16) := by
    rw [List.map_map]
    rfl
  rw [checksumByte, hvals, ← List.sum_nat_mod]

/-- Checksum bytes differ when the sums of the values differ mod 16 (R82, R83). -/
theorem sum_mod_eq_of_checksumByte_eq {p : Params} (hp : p.alphabetOk = true) {bs bs' : Frame}
    (h : checksumByte p bs = checksumByte p bs') : (bs.map wireVal).sum % 16 = (bs'.map wireVal).sum % 16 := by
  have hval := congrArg wireVal h
  rwa [checksumByte, checksumByte, wireVal_nib hp (Nat.mod_lt _ (by decide)),
    wireVal_nib hp (Nat.mod_lt _ (by decide))] at hval

/-- Replacing one byte moves the sum by the difference of the two values. -/
theorem sum_wireVal_set {bs : Frame} {i : Nat} (hi : i < bs.length) (b : Byte) :
    ((bs.set i b).map wireVal).sum + wireVal (byteAt bs i) = (bs.map wireVal).sum + wireVal b := by
  induction bs generalizing i with
  | nil => cases hi
  | cons x xs ih =>
    cases i with
    | zero =>
      have hx : byteAt (x :: xs) 0 = x := rfl
      simp only [List.set_cons_zero, List.map_cons, List.sum_cons, hx]
      omega
    | succ i =>
      have hx : byteAt (x :: xs) (i + 1) = byteAt xs i := rfl
      have hrest := ih (Nat.lt_of_succ_lt_succ hi)
      simp only [List.set_cons_succ, List.map_cons, List.sum_cons, hx]
      omega

/-! ## A frame with one byte replaced -/

theorem byteAt_set_of_ne {f : Frame} {i k : Nat} (b : Byte) (h : i ≠ k) : byteAt (f.set i b) k = byteAt f k := by
  simp [byteAt, List.getD, List.getElem?_set_ne h]

theorem byteAt_take_of_lt {f : Frame} {i j : Nat} (h : i < j) : byteAt (f.take j) i = byteAt f i := by
  simp [byteAt, List.getD, List.getElem?_take_of_lt h]

/-- A byte of the same value leaves the list of values as it was. -/
theorem map_wireVal_set {f : Frame} {i : Nat} {b : Byte} (h : wireVal b = wireVal (byteAt f i)) :
    (f.set i b).map wireVal = f.map wireVal := by
  rw [List.map_set, h]
  by_cases hi : i < f.length
  · rw [byteAt, List.getD_eq_getElem _ _ hi, ← List.getElem_map wireVal (h := by simpa using hi), List.set_getElem_self]
  · exact List.set_eq_of_length_le (by simpa using hi)

/-- What `unpack` answers on a frame of a well-formed spec's length: values, every checksum agreeing, or the offset of a
checksum that differs. -/
theorem unpack_cases {p : Params} {spec : FieldSpec} {f : Frame} (hw : specWellFormed spec = true)
    (hlen : wireLength spec ≤ f.length) :
    (∃ vs, unpack p spec f = .ok vs ∧ vs.length = arity spec ∧
      ∀ k ∈ checksumOffsets spec 0, byteAt f k = checksumByte p (f.take k)) ∨
    (∃ k ∈ checksumOffsets spec 0, unpack p spec f = .error (.checksum k) ∧
      byteAt f k ≠ checksumByte p (f.take k)) := by
  rw [unpack_of_long hw hlen]
  obtain hok | ⟨k, hk, herr, hne, -⟩ := decodeFields_cases p f spec 0
  · exact .inl hok
  · exact .inr ⟨k, hk, herr, hne⟩

/-! ## What `pack` answers -/

theorem pack_length {p : Params} {spec : FieldSpec} {vals : List Value} {f : Frame} (h : pack p spec vals = .ok f) :
    f.length = wireLength spec := by
  obtain ⟨-, hn, hfit, rfl⟩ := pack_eq_ok h
  rw [emitFields_length p hn hfit, List.length_nil, Nat.zero_add]

/-- Every checksum byte of a packed frame agrees (R125, R136). -/
theorem pack_checksums_agree {p : Params} (hp : p.alphabetOk = true) {spec : FieldSpec} {vals : List Value} {f : Frame}
    (h : pack p spec vals = .ok f) : ∀ k ∈ checksumOffsets spec 0, byteAt f k = checksumByte p (f.take k) := by
  obtain ⟨hw, -⟩ := pack_eq_ok h
  obtain ⟨-, -, -, hagree⟩ | ⟨k, -, herr, -⟩ := unpack_cases (p := p) hw (pack_length h).ge
  · exact hagree
  · rw [unpackOfPackGivesTheValues p hp spec vals f h] at herr
    cases herr

/-- Settles O14: each check's answer in turn, and the length of what is emitted. -/
theorem packChecksInOrder : Obligations.PackChecksInOrder := by
  intro p spec vals
  refine ⟨pack_of_malformed, pack_of_countMismatch, pack_of_range, fun hw hn hfit => ?_⟩
  have hpack := pack_of_fit (p := p) hw hn hfit
  exact ⟨_, hpack, pack_length hpack⟩

/-- Settles O20: each corner case is evaluated. -/
theorem packCornerCases : Obligations.PackCornerCases := by
  unfold Obligations.PackCornerCases
  decide

/-! ## One byte changed (R137) -/

/-- Settles O17: were every checksum to agree, the one at `j` would have the same sum with the byte replaced as without,
and the two values would be the same. -/
theorem changedNibbleIsDetected : Obligations.ChangedNibbleIsDetected := by
  intro p hp spec vals f i j b hpack hj hij hi hvalue
  obtain ⟨hw, -⟩ := pack_eq_ok hpack
  have hlen := pack_length hpack
  have hjlen : j < f.length := by have := (checksumOffsets_bounds hj).2; omega
  obtain ⟨vs, -, -, hagree⟩ | ⟨k, -, herr, -⟩ :=
    unpack_cases (p := p) (f := f.set i b) hw (by rw [List.length_set, hlen])
  · have hsame : checksumByte p ((f.take j).set i b) = checksumByte p (f.take j) := by
      rw [← List.take_set, ← hagree j hj, byteAt_set_of_ne b hij.ne, pack_checksums_agree hp hpack j hj]
    have hsum := sum_mod_eq_of_checksumByte_eq hp hsame
    have hshift := sum_wireVal_set (bs := f.take j) (i := i) (by rw [List.length_take]; omega) b
    rw [byteAt_take_of_lt hij] at hshift
    have hb : wireVal b < 16 := Nat.mod_lt _ (by decide)
    have hf : wireVal (byteAt f i) < 16 := Nat.mod_lt _ (by decide)
    omega
  · exact ⟨k, herr⟩

section
variable {f g : Frame} (h : f.map wireVal = g.map wireVal)
include h

theorem wireVal_byteAt_of_map_eq (k : Nat) : wireVal (byteAt f k) = wireVal (byteAt g k) := by
  have hval := congrArg (List.getD · k (wireVal 0)) h
  simpa only [List.getD_map, byteAt] using hval

theorem checksumByte_take_of_map_eq (p : Params) (k : Nat) :
    checksumByte p (f.take k) = checksumByte p (g.take k) := by
  rw [checksumByte, checksumByte, List.map_take, List.map_take, h]

/-- A field that is no literal and no string decodes from its bytes' values only (R83, R129). -/
theorem fieldValue_of_map_eq {kind : FieldKind} (hlit : kind ≠ .lit) (hstr : ∀ n, kind ≠ .str n) (k : Nat) :
    fieldValue f kind k = fieldValue g kind k := by
  have hval := wireVal_byteAt_of_map_eq h
  cases kind with
  | lit => exact absurd rfl hlit
  | str n => exact absurd rfl (hstr n)
  | byte => simp only [fieldValue, valueByteAt, hval]
  | nib => simp only [fieldValue, hval]
  | skip n | chk => rfl

/-- Frames of the same values and the same checksum bytes decode alike, in a spec with no literal and no string. -/
theorem decodeFields_of_map_eq (p : Params) {spec : FieldSpec} (hspec : ∀ kind ∈ spec, kind ≠ .lit ∧ ∀ n, kind ≠ .str n)
    {k : Nat} (hchk : ∀ j ∈ checksumOffsets spec k, byteAt f j = byteAt g j) :
    decodeFields p f spec k = decodeFields p g spec k := by
  induction spec generalizing k with
  | nil => rfl
  | cons kind ks ih =>
    obtain ⟨⟨hlit, hstr⟩, hks⟩ := List.forall_mem_cons.1 hspec
    obtain hval | ⟨n, rfl⟩ | rfl := value_or_skip_or_chk kind
    · rw [checksumOffsets_of_value hval] at hchk
      rw [decodeFields_of_value hval, decodeFields_of_value hval, ih hks hchk, fieldValue_of_map_eq h hlit hstr]
    · exact ih hks hchk
    · rw [checksumOffsets_chk] at hchk
      obtain ⟨hk, hrest⟩ := List.forall_mem_cons.1 hchk
      simp only [decodeFields, hk, checksumByte_take_of_map_eq h, ih hks hrest]

end

/-- Settles O18: the values, and so the sums, are those of the packed frame, and the checksum bytes are its own. -/
theorem changedHighBitsPassUndetected : Obligations.ChangedHighBitsPassUndetected := by
  intro p hp spec vals f i b hpack hi hvalue
  obtain ⟨hw, -⟩ := pack_eq_ok hpack
  have hlen : wireLength spec ≤ (f.set i b).length := by rw [List.length_set, pack_length hpack]
  have hmap : (f.set i b).map wireVal = f.map wireVal := map_wireVal_set hvalue
  have hchk : ∀ k ∈ checksumOffsets spec 0, byteAt (f.set i b) k = byteAt f k :=
    fun k hk => byteAt_set_of_ne b fun hik => hi (hik ▸ hk)
  refine ⟨?_, fun hspec => ?_⟩
  · obtain ⟨vs, hok, -⟩ | ⟨k, hk, -, hdiffers⟩ := unpack_cases (p := p) hw hlen
    · exact ⟨vs, hok⟩
    · rw [hchk k hk, checksumByte_take_of_map_eq hmap] at hdiffers
      exact absurd (pack_checksums_agree hp hpack k hk) hdiffers
  · rw [← unpackOfPackGivesTheValues p hp spec vals f hpack, unpack_of_long hw hlen,
      unpack_of_long hw (pack_length hpack).ge, decodeFields_of_map_eq hmap p hspec hchk]

end Sys2Proof.Machine
end

section
/-! PROOFS. The command frames of 30_encoding.md (R90 to R95) and the builds of 42_commands.md (R206 to R223): which
operands a build sends which bytes for, and which it refuses with a `FormatError` (R243). -/

namespace Sys2Proof.Machine

open Sys2Proof Sys2Proof.Safety

/-! ## Parameters -/

theorem alphabetOk_of_valid {p : Params} (h : p.valid = true) : p.alphabetOk = true := by
  simp_all [Params.valid]

/-- R8(d): the word identifiers of a valid configuration fit five bits. -/
theorem words_le_of_valid {p : Params} (h : p.valid = true) :
    p.wSpeed ≤ 31 ∧ p.wBrake ≤ 31 ∧ p.wFuel ≤ 31 ∧ p.wPos ≤ 31 ∧ p.wLapHi ≤ 31 ∧ p.wLapLo ≤ 31 := by
  simp_all [Params.valid, Params.idsOk]

theorem fixedOperandsFit_iff {p : Params} :
    fixedOperandsFit p = true ↔ p.lapAddr ≤ 7 ∧ p.clrposAddr ≤ 7 ∧ (0 ≤ p.clrposValue ∧ p.clrposValue ≤ 15) ∧
      (0 ≤ p.clrposRepeat ∧ p.clrposRepeat ≤ 15) := by
  simp [fixedOperandsFit, and_assoc]

/-! ## Bytes -/

theorem wireByte_eq_nib (p : Params) (v : Nat) : wireByte p v = nib p v := by
  rw [wireByte, nib, BitVec.ofNat_add, BitVec.ofNat_toNat, BitVec.setWidth_eq]

theorem buttonFrame_eq_buttonBytes (p : Params) (id : Nat) : buttonFrame p id = buttonBytes p id := by
  rw [buttonFrame, buttonBytes, wireByte_eq_nib]

/-- R90: a word identifier of five bits and an address are packed side by side. -/
theorem wordAddress_eq {word addr : Nat} (h : word ≤ 31) : wordAddress word addr = 32 * addr + word := by
  have hor := Nat.shiftLeft_add_eq_or_of_lt (show word < 2 ^ 5 by omega) addr
  rw [wordAddress, Nat.or_comm, ← hor, Nat.shiftLeft_eq]
  omega

/-- A tag byte and the alphabet bytes of the nibbles `ns`: what a command frame holds before its checksum (R92, R93). -/
def taggedNibs (p : Params) (tag : Byte) (ns : List Nat) : Frame := tag :: ns.map (nib p)

/-- R122: the checksum of such bytes, in terms of the nibbles. -/
theorem checksumByte_taggedNibs {p : Params} (hp : p.alphabetOk = true) (tag : Byte) {ns : List Nat}
    (h : ∀ n ∈ ns, n < 16) : checksumByte p (taggedNibs p tag ns) = nib p ((tag.toNat + ns.sum) % 16) := by
  have hvals : (ns.map (nib p)).map wireVal = ns := by
    rw [List.map_map]
    exact (List.map_congr_left fun n hn => wireVal_nib hp (h n hn)).trans (List.map_id ns)
  rw [checksumByte, taggedNibs, List.map_cons, hvals, List.sum_cons, wireVal, Nat.mod_add_mod]

/-- An operand lane that is not negative reads the same signed and unsigned. -/
theorem toNat_toInt {w : Word32} (h : 0 ≤ w.toInt) : w.toInt.toNat = w.toNat := by
  rw [BitVec.toInt_eq_toNat_cond] at h ⊢
  split at h <;> omega

/-! ## The word-write frame -/

theorem valuesFit_wordWriteFmt (t w v r : Int) :
    valuesFit wordWriteFmt [.int t, .int w, .int v, .int r] = true ↔
      (0 ≤ t ∧ t ≤ 255) ∧ (0 ≤ w ∧ w ≤ 255) ∧ (0 ≤ v ∧ v ≤ 15) ∧ (0 ≤ r ∧ r ≤ 15) := by
  have hpairs : valuesFit wordWriteFmt [.int t, .int w, .int v, .int r] =
      (valueFits .lit (.int t) && (valueFits .byte (.int w) && (valueFits .nib (.int v) &&
        (valueFits .nib (.int r) && true)))) := rfl
  simp [hpairs, valueFits]

/-- The bytes of the word-write format, as `pack` emits them (R92). -/
theorem emitFields_wordWriteFmt (p : Params) (t : Byte) (w v r : Int) :
    emitFields p wordWriteFmt [.int t.toNat, .int w, .int v, .int r] [] =
      taggedNibs p t [w.toNat % 16, w.toNat / 16 % 16, v.toNat, r.toNat] ++
        [checksumByte p (taggedNibs p t [w.toNat % 16, w.toNat / 16 % 16, v.toNat, r.toNat])] := by
  simp [taggedNibs, wordWriteFmt, emitFields, encodeValue]

/-- R201: a word-write of fitting operands is the six bytes of R92. -/
theorem wordWrite_of_fit {p : Params} (hp : p.alphabetOk = true) {word addr : Nat} (hword : word ≤ 31)
    (haddr : addr ≤ 7) {v r : Int} (hv : 0 ≤ v ∧ v ≤ 15) (hr : 0 ≤ r ∧ r ≤ 15) :
    wordWrite p word addr v r = .ok (wordWriteBytes p word addr v.toNat r.toNat) := by
  have htag := p.tagWord.isLt
  have hfit : valuesFit wordWriteFmt
      [.int p.tagWord.toNat, .int (wordAddress word addr), .int v, .int r] = true := by
    rw [valuesFit_wordWriteFmt, wordAddress_eq hword]
    omega
  have hmod : (32 * addr + word) / 16 % 16 = (32 * addr + word) / 16 := by omega
  rw [wordWrite, pack_of_fit rfl rfl hfit, emitFields_wordWriteFmt, wordAddress_eq hword, Int.toNat_natCast, hmod,
    checksumByte_taggedNibs hp _ (by simp; omega)]
  simp [wordWriteBytes, taggedNibs, wireByte_eq_nib, Nat.add_assoc]

/-- R123, R201: a word-write whose value or repeat count does not fit a nibble is refused. -/
theorem wordWrite_of_range {p : Params} {word addr : Nat} {v r : Int}
    (h : ¬((0 ≤ v ∧ v ≤ 15) ∧ (0 ≤ r ∧ r ≤ 15))) : wordWrite p word addr v r = .error (.format .range) := by
  refine pack_of_range rfl rfl ?_
  rw [Bool.eq_false_iff, Ne, valuesFit_wordWriteFmt]
  exact fun ⟨_, _, hvr⟩ => h hvr

/-- Every word-write begins with the word-write tag (R92). -/
theorem wordWrite_head {p : Params} {word addr : Nat} {v r : Int} {f : Frame}
    (h : wordWrite p word addr v r = .ok f) : f.head? = some p.tagWord := by
  obtain ⟨-, -, -, rfl⟩ := pack_eq_ok h
  rw [emitFields_wordWriteFmt]
  rfl

/-! ## The ignore-controller frame -/

theorem valuesFit_ignoreFmt (t m : Int) :
    valuesFit ignoreFmt [.int t, .int m] = true ↔ (0 ≤ t ∧ t ≤ 255) ∧ (0 ≤ m ∧ m ≤ 255) := by
  have hpairs : valuesFit ignoreFmt [.int t, .int m] =
      (valueFits .lit (.int t) && (valueFits .byte (.int m) && true)) := rfl
  simp [hpairs, valueFits]

/-- The bytes of the ignore-controller format, as `pack` emits them (R93). -/
theorem emitFields_ignoreFmt (p : Params) (t : Byte) (m : Int) :
    emitFields p ignoreFmt [.int t.toNat, .int m] [] =
      taggedNibs p t [m.toNat % 16, m.toNat / 16 % 16] ++
        [checksumByte p (taggedNibs p t [m.toNat % 16, m.toNat / 16 % 16])] := by
  simp [taggedNibs, ignoreFmt, emitFields, encodeValue]

/-- R212: the frame of a mask that fits is the four bytes of R93. -/
theorem ignoreFrame_of_fit {p : Params} (hp : p.alphabetOk = true) {m : Int} (hm : 0 ≤ m ∧ m ≤ 255) :
    ignoreFrame p m = .ok (ignoreBytes p m.toNat) := by
  have htag := p.tagIgnore.isLt
  have hfit : valuesFit ignoreFmt [.int p.tagIgnore.toNat, .int m] = true := by
    rw [valuesFit_ignoreFmt]
    omega
  have hmod : m.toNat / 16 % 16 = m.toNat / 16 := by omega
  rw [ignoreFrame, pack_of_fit rfl rfl hfit, emitFields_ignoreFmt, hmod, checksumByte_taggedNibs hp _ (by simp; omega)]
  simp [ignoreBytes, taggedNibs, wireByte_eq_nib, Nat.add_assoc]

/-- R123, R212: a mask that does not fit a byte is refused. -/
theorem ignoreFrame_of_range {p : Params} {m : Int} (h : ¬(0 ≤ m ∧ m ≤ 255)) :
    ignoreFrame p m = .error (.format .range) := by
  refine pack_of_range rfl rfl ?_
  rw [Bool.eq_false_iff, Ne, valuesFit_ignoreFmt]
  exact fun ⟨_, hm⟩ => h hm

theorem ignoreFrame_head {p : Params} {m : Int} {f : Frame} (h : ignoreFrame p m = .ok f) :
    f.head? = some p.tagIgnore := by
  obtain ⟨-, -, -, rfl⟩ := pack_eq_ok h
  rw [emitFields_ignoreFmt]
  rfl

/-! ## Word-write builds -/

section
variable {p : Params} {word : Nat} {lo hi : Int} {cause : ValidationCause} {chkValue : Int → Except BlockError Unit}
  (hp : p.alphabetOk = true) (hword : word ≤ 31) (hlo : 0 ≤ lo) (hhi : hi ≤ 15)
  (hchk : ∀ v, chkValue v = if lo ≤ v ∧ v ≤ hi then .ok () else .error (.validation cause))
include hp hword hlo hhi hchk

/-- R206 to R209: what a word-write operation builds, in the order of its checks. -/
theorem wordWriteBuild_eq (a v r : Int) :
    wordWriteBuild p word chkValue a v r =
      if ¬(0 ≤ a ∧ a ≤ 7) then .fail (.validation .address)
      else if ¬(lo ≤ v ∧ v ≤ hi) then .fail (.validation cause)
      else if ¬(0 ≤ r ∧ r ≤ 15) then .fail (.format .range)
      else .send (wordWriteBytes p word a.toNat v.toNat r.toNat) [] := by
  by_cases ha : 0 ≤ a ∧ a ≤ 7
  · by_cases hv : lo ≤ v ∧ v ≤ hi
    · by_cases hr : 0 ≤ r ∧ r ≤ 15
      · have hframe : wordWrite p word a.toNat v r = .ok (wordWriteBytes p word a.toNat v.toNat r.toNat) :=
          wordWrite_of_fit hp hword (by omega) (by omega) hr
        simp [wordWriteBuild, chkAddr, hchk, ha, hv, hr, hframe, sendBuild, bind, Except.bind, pure, Except.pure]
      · have hframe : wordWrite p word a.toNat v r = .error (.format .range) :=
          wordWrite_of_range fun h => hr h.2
        simp [wordWriteBuild, chkAddr, hchk, ha, hv, hr, hframe, sendBuild, bind, Except.bind]
    · simp [wordWriteBuild, chkAddr, hchk, ha, hv, sendBuild, bind, Except.bind]
  · simp [wordWriteBuild, chkAddr, ha, sendBuild, bind, Except.bind]

theorem wordWriteBuild_of_inRange {a v r : Word32} (ha : 0 ≤ a.toInt ∧ a.toInt ≤ 7)
    (hv : lo ≤ v.toInt ∧ v.toInt ≤ hi) (hr : 0 ≤ r.toInt ∧ r.toInt ≤ 15) :
    wordWriteBuild p word chkValue a.toInt v.toInt r.toInt =
      .send (wordWriteBytes p word a.toNat v.toNat r.toNat) [] := by
  rw [wordWriteBuild_eq hp hword hlo hhi hchk, if_neg (not_not.2 ha), if_neg (not_not.2 hv), if_neg (not_not.2 hr),
    toNat_toInt ha.1, toNat_toInt (hlo.trans hv.1), toNat_toInt hr.1]

/-- A word-write operation that has a first frame sends it, and nothing after it. -/
theorem wordWriteBuild_of_wordFrame {a v r : Word32} {f : Frame} (h : wordFrame p word a v r lo hi = some f) :
    wordWriteBuild p word chkValue a.toInt v.toInt r.toInt = .send f [] := by
  unfold wordFrame at h
  split at h
  · next hrange =>
    obtain ⟨⟨ha, hv⟩, hr⟩ : ((0 ≤ a.toInt ∧ a.toInt ≤ 7) ∧ (lo ≤ v.toInt ∧ v.toInt ≤ hi)) ∧
        (0 ≤ r.toInt ∧ r.toInt ≤ 15) := by simpa [inRange] using hrange
    cases h
    exact wordWriteBuild_of_inRange hp hword hlo hhi hchk ha hv hr
  · cases h

end

/-! ## The other builds that pack a frame -/

/-- R210: `CLRPOS` sends its fixed word-write. -/
theorem clrposBuild_eq {p : Params} (hvalid : p.valid = true) (hfixed : fixedOperandsFit p = true) :
    clrposBuild p = .send (clearPositionBytes p) [] := by
  obtain ⟨-, -, -, hword, -⟩ := words_le_of_valid hvalid
  obtain ⟨-, haddr, hvalue, hrepeat⟩ := fixedOperandsFit_iff.1 hfixed
  have hframe := wordWrite_of_fit (alphabetOk_of_valid hvalid) hword haddr hvalue hrepeat
  simp [clrposBuild, hframe, clearPositionBytes, sendBuild, bind, Except.bind, pure, Except.pure]

/-- R211: what `SETLAP` builds: the check of the lap, then the word-writes of its high and of its low nibble. -/
theorem setlapBuild_eq {p : Params} (hvalid : p.valid = true) (hfixed : fixedOperandsFit p = true) (v : Int) :
    setlapBuild p v =
      if ¬(0 ≤ v ∧ v ≤ 255) then .fail (.validation .lap)
      else .send (wordWriteBytes p p.wLapHi p.lapAddr (v.toNat / 16) 1)
        [wordWriteBytes p p.wLapLo p.lapAddr (v.toNat % 16) 1] := by
  obtain ⟨-, -, -, -, hhigh, hlow⟩ := words_le_of_valid hvalid
  obtain ⟨haddr, -⟩ := fixedOperandsFit_iff.1 hfixed
  have hp := alphabetOk_of_valid hvalid
  by_cases hv : 0 ≤ v ∧ v ≤ 255
  · have hhighFrame := wordWrite_of_fit hp hhigh haddr (v := v / 16 % 16) (r := 1) (by omega) (by decide)
    have hlowFrame := wordWrite_of_fit hp hlow haddr (v := v % 16) (r := 1) (by omega) (by decide)
    have hhighNibble : (v / 16 % 16).toNat = v.toNat / 16 := by omega
    have hlowNibble : (v % 16).toNat = v.toNat % 16 := by omega
    rw [hhighNibble] at hhighFrame
    rw [hlowNibble] at hlowFrame
    simp [setlapBuild, chkLap, hv, hhighFrame, hlowFrame, sendBuild, bind, Except.bind, pure, Except.pure]
  · simp [setlapBuild, chkLap, hv, sendBuild, bind, Except.bind]

/-- R212: what `IGNORE` builds. -/
theorem ignoreBuild_eq {p : Params} (hp : p.alphabetOk = true) (v : Int) :
    ignoreBuild p v = if ¬(0 ≤ v ∧ v ≤ 255) then .fail (.format .range) else .send (ignoreBytes p v.toNat) [] := by
  by_cases hv : 0 ≤ v ∧ v ≤ 255
  · simp [ignoreBuild, hv, ignoreFrame_of_fit hp hv, sendBuild, bind, Except.bind, pure, Except.pure]
  · simp [ignoreBuild, hv, ignoreFrame_of_range hv, sendBuild, bind, Except.bind]

theorem fixedBuild_buttonFrame (p : Params) (id : Nat) :
    fixedBuild (buttonFrame p id) = .send (buttonBytes p id) [] := by
  rw [fixedBuild, buttonFrame_eq_buttonBytes]

/-- Every operation that has a first frame builds it (R206 to R221). -/
theorem buildOf_of_firstFrame {p : Params} (hvalid : p.valid = true) (hfixed : fixedOperandsFit p = true) {i : Instr}
    {f : Frame} (h : firstFrame p i = some f) : ∃ rest, buildOf p i = .send f rest := by
  have hp := alphabetOk_of_valid hvalid
  obtain ⟨hspeed, hbrake, hfuel, hpos, -⟩ := words_le_of_valid hvalid
  cases i with
  | setspeed a v r =>
    exact ⟨[], wordWriteBuild_of_wordFrame hp hspeed (by decide) (by decide) (fun _ => rfl) h⟩
  | setbrake a v r =>
    exact ⟨[], wordWriteBuild_of_wordFrame hp hbrake (by decide) (by decide) (fun _ => rfl) h⟩
  | setfuel a v r =>
    exact ⟨[], wordWriteBuild_of_wordFrame hp hfuel (by decide) (by decide) (fun _ => rfl) h⟩
  | setpos a v r =>
    exact ⟨[], wordWriteBuild_of_wordFrame hp hpos (by decide) (by decide) (fun _ => rfl) h⟩
  | clrpos => cases h; exact ⟨[], clrposBuild_eq hvalid hfixed⟩
  | setlap v =>
    obtain ⟨hv, rfl⟩ : (0 ≤ v.toInt ∧ v.toInt ≤ 255) ∧
        wordWriteBytes p p.wLapHi p.lapAddr (v.toNat / 16) 1 = f := by simpa [firstFrame, inRange] using h
    rw [buildOf, setlapBuild_eq hvalid hfixed, if_neg (not_not.2 hv), toNat_toInt hv.1]
    exact ⟨_, rfl⟩
  | ignore v =>
    obtain ⟨hv, rfl⟩ : (0 ≤ v.toInt ∧ v.toInt ≤ 255) ∧ ignoreBytes p v.toNat = f := by
      simpa [firstFrame, inRange] using h
    rw [buildOf, ignoreBuild_eq hp, if_neg (not_not.2 hv), toNat_toInt hv.1]
    exact ⟨_, rfl⟩
  | reset | version | request => cases h; exact ⟨[], rfl⟩
  | pressPaceCar | pressStart | pressSpeed | pressBrake | pressFuel | pressCode =>
    cases h; exact ⟨[], fixedBuild_buttonFrame p _⟩
  | pack spec vals | unpack spec buf => cases h

/-! ## The builds that packing or unpacking stops (R243) -/

/-- The build fails with a `FormatError`. -/
def Build.FailsFormat (b : Build) : Prop := ∃ c, b = .fail (.format c)

@[simp] theorem failsFormat_fail (e : BlockError) : (Build.fail e).FailsFormat ↔ ∃ c, e = .format c := by
  simp [Build.FailsFormat]

@[simp] theorem not_failsFormat_done (r : Result) : ¬ (Build.done r).FailsFormat := nofun

@[simp] theorem not_failsFormat_send (f : Frame) (rest : List Frame) : ¬ (Build.send f rest).FailsFormat := nofun

/-- R243(a): a word-write is refused by packing when it passes validation and its repeat count does not fit. -/
theorem failsFormat_wordWriteBuild {p : Params} (hp : p.alphabetOk = true) {word : Nat} (hword : word ≤ 31)
    {lo hi : Int} (hlo : 0 ≤ lo) (hhi : hi ≤ 15) {cause : ValidationCause} {chkValue : Int → Except BlockError Unit}
    (hchk : ∀ v, chkValue v = if lo ≤ v ∧ v ≤ hi then .ok () else .error (.validation cause)) (a v r : Int) :
    (wordWriteBuild p word chkValue a v r).FailsFormat ↔
      ¬(¬(0 ≤ a ∧ a ≤ 7) ∨ ¬(lo ≤ v ∧ v ≤ hi)) ∧ ¬(0 ≤ r ∧ r ≤ 15) := by
  rw [wordWriteBuild_eq hp hword hlo hhi hchk]
  split_ifs with ha hv hr
  all_goals simp_all

theorem failsFormat_ignoreBuild {p : Params} (hp : p.alphabetOk = true) (v : Int) :
    (ignoreBuild p v).FailsFormat ↔ ¬(0 ≤ v ∧ v ≤ 255) := by
  rw [ignoreBuild_eq hp]
  split_ifs with hv
  all_goals simp_all

theorem not_failsFormat_setlapBuild {p : Params} (hvalid : p.valid = true) (hfixed : fixedOperandsFit p = true)
    (v : Int) : ¬ (setlapBuild p v).FailsFormat := by
  rw [setlapBuild_eq hvalid hfixed]
  split_ifs
  all_goals simp

/-- R243(c): `PACK` is refused for a malformed spec, a wrong count or a value out of range. -/
theorem failsFormat_packBuild (p : Params) (spec : FieldSpec) (vals : List Value) :
    (packBuild p spec vals).FailsFormat ↔
      specWellFormed spec = false ∨ vals.length ≠ arity spec ∨ valuesFit spec vals = false := by
  unfold packBuild
  cases hpack : pack p spec vals with
  | ok f =>
    obtain ⟨hw, hn, hfit, -⟩ := pack_eq_ok hpack
    simp [hw, hn, hfit]
  | error e =>
    refine iff_of_true ((failsFormat_fail e).2 (pack_eq_error hpack)) ?_
    by_contra hnone
    simp only [not_or, not_not, Bool.not_eq_false] at hnone
    obtain ⟨hw, hn, hfit⟩ := hnone
    rw [pack_of_fit hw hn hfit] at hpack
    cases hpack

/-- R243(d): `UNPACK` is refused for a malformed spec or a frame that is too short; a checksum that differs is another
error. -/
theorem failsFormat_unpackBuild (p : Params) (spec : FieldSpec) (buf : Frame) :
    (unpackBuild p spec buf).FailsFormat ↔ specWellFormed spec = false ∨ buf.length < wireLength spec := by
  unfold unpackBuild
  cases hw : specWellFormed spec with
  | false => simp [unpack_of_malformed hw]
  | true =>
    obtain hlen | hlen := Nat.lt_or_ge buf.length (wireLength spec)
    · simp [unpack_of_short hw hlen, hlen]
    · obtain ⟨vs, hok, -⟩ | ⟨k, -, herr, -⟩ := unpack_cases (p := p) hw hlen
      · simp [hok, hlen.not_gt]
      · simp [herr, hlen.not_gt]

/-- R243: the build of an operation fails with a `FormatError` for exactly the listed operands. -/
theorem failsFormat_buildOf {p : Params} (hvalid : p.valid = true) (hfixed : fixedOperandsFit p = true) (i : Instr) :
    (buildOf p i).FailsFormat ↔ failsFormat i := by
  have hp := alphabetOk_of_valid hvalid
  obtain ⟨hspeed, hbrake, hfuel, hpos, -⟩ := words_le_of_valid hvalid
  cases i with
  | setspeed a v r => exact failsFormat_wordWriteBuild hp hspeed (by decide) (by decide) (fun _ => rfl) _ _ _
  | setbrake a v r => exact failsFormat_wordWriteBuild hp hbrake (by decide) (by decide) (fun _ => rfl) _ _ _
  | setfuel a v r => exact failsFormat_wordWriteBuild hp hfuel (by decide) (by decide) (fun _ => rfl) _ _ _
  | setpos a v r => exact failsFormat_wordWriteBuild hp hpos (by decide) (by decide) (fun _ => rfl) _ _ _
  | clrpos =>
    rw [buildOf, clrposBuild_eq hvalid hfixed]
    exact iff_of_false (not_failsFormat_send _ _) id
  | setlap v => exact iff_of_false (not_failsFormat_setlapBuild hvalid hfixed v.toInt) id
  | ignore v => exact failsFormat_ignoreBuild hp v.toInt
  | reset | version | request | pressPaceCar | pressStart | pressSpeed | pressBrake | pressFuel | pressCode =>
    exact iff_of_false (not_failsFormat_send _ _) id
  | pack spec vals => exact failsFormat_packBuild p spec vals
  | unpack spec buf => exact failsFormat_unpackBuild p spec buf

end Sys2Proof.Machine
end

section
/-! PROOFS. The operations of 42_commands.md: what each leaves when it completes (R206 to R223), is refused (R204, R243)
or has its first send fail (R164, R245, R246). -/

namespace Sys2Proof.Machine

open Sys2Proof Sys2Proof.Safety

/-! ## From the build to the next state -/

section
variable {i : Instr} {s : State} (hp : s.phase = .idle)
include hp

theorem exec_of_fail {e : BlockError} (hb : buildOf s.params i = .fail e) :
    exec i s = .next (afterAnswer s (.err (errorNumber e))) := by
  rw [exec_eq_accept, hb, accept_fail hp, refuse_eq_afterAnswer]

theorem exec_of_done {r : Result} (hb : buildOf s.params i = .done r) : exec i s = .next (afterAnswer s (.ok r)) := by
  rw [exec_eq_accept, hb, accept_done hp]
  rfl

theorem exec_of_send {f : Frame} {rest : List Frame} (hb : buildOf s.params i = .send f rest) :
    exec i s = .next (send f rest (s.clearDiscards.serve (opcodeOf i))) := by
  rw [exec_eq_accept, hb, accept_send hp]

/-- R162 to R164: an operation whose first frame was written awaits its reply. -/
theorem exec_of_send_ok {f : Frame} {rest : List Frame} (ho : txOutcome s = .ok)
    (hb : buildOf s.params i = .send f rest) : exec i s = .next (afterSend s (opcodeOf i) f rest) := by
  have ho' : txOutcome (s.clearDiscards.serve (opcodeOf i)) = .ok := ho
  rw [exec_of_send hp hb, send_of_ok ho', State.offer, ho']
  rfl

/-- R164, R245: the transport's timeout ends the operation. -/
theorem exec_of_send_timeout {f : Frame} {rest : List Frame} (ho : txOutcome s = .timeout)
    (hb : buildOf s.params i = .send f rest) : exec i s = .next (afterFailedSend s f .timeout 4) := by
  have ho' : txOutcome (s.clearDiscards.serve (opcodeOf i)) = .timeout := ho
  rw [exec_of_send hp hb, send_of_timeout ho', endErr_offer, ho']
  rfl

/-- R164, R246: the transport's failure ends the operation. -/
theorem exec_of_send_ioerr {f : Frame} {rest : List Frame} (ho : txOutcome s = .ioerr)
    (hb : buildOf s.params i = .send f rest) : exec i s = .next (afterFailedSend s f .ioerr 5) := by
  have ho' : txOutcome (s.clearDiscards.serve (opcodeOf i)) = .ioerr := ho
  rw [exec_of_send hp hb, send_of_ioerr ho', endErr_offer, ho']
  rfl

end

/-! ## Operations that send -/

/-- Settles O21: each build is the word-write of its identifier. -/
theorem speedBrakeAndFuelWritesAreSent : Obligations.SpeedBrakeAndFuelWritesAreSent := by
  intro a v r s hvalid hidle hok ha0 ha7 hv0 hv15 hr0 hr15
  have hp := alphabetOk_of_valid hvalid
  obtain ⟨hspeed, hbrake, hfuel, -⟩ := words_le_of_valid hvalid
  have hbuild : ∀ {word : Nat}, word ≤ 31 → wordWriteBuild s.params word chkNval a.toInt v.toInt r.toInt =
      .send (wordWriteBytes s.params word a.toNat v.toNat r.toNat) [] := fun hword =>
    wordWriteBuild_of_inRange hp hword (by decide) (by decide) (fun _ => rfl) ⟨ha0, ha7⟩ ⟨hv0, hv15⟩ ⟨hr0, hr15⟩
  exact ⟨exec_of_send_ok hidle hok (hbuild hspeed), exec_of_send_ok hidle hok (hbuild hbrake),
    exec_of_send_ok hidle hok (hbuild hfuel)⟩

/-- Settles O22: the build is the position word-write, its check the position's. -/
theorem positionWriteIsSent : Obligations.PositionWriteIsSent := by
  intro a v r s hvalid hidle hok ha0 ha7 hv1 hv8 hr0 hr15
  obtain ⟨-, -, -, hpos, -⟩ := words_le_of_valid hvalid
  exact exec_of_send_ok hidle hok (wordWriteBuild_of_inRange (alphabetOk_of_valid hvalid) hpos (by decide) (by decide)
    (fun _ => rfl) ⟨ha0, ha7⟩ ⟨hv1, hv8⟩ ⟨hr0, hr15⟩)

/-- Settles O23: the build with the configuration's fixed operands, and its bytes at the defaults. -/
theorem clearPositionIsSent : Obligations.ClearPositionIsSent := by
  intro s hidle hok
  have hsent : s.params.valid = true → fixedOperandsFit s.params = true →
      exec .clrpos s = .next (afterSend s .clrpos (clearPositionBytes s.params) []) :=
    fun hvalid hfixed => exec_of_send_ok (i := .clrpos) hidle hok (clrposBuild_eq hvalid hfixed)
  refine ⟨hsent, fun hcu => ?_⟩
  have hbytes : clearPositionBytes cu = [0x4A, 0x36, 0x30, 0x30, 0x39, 0x39] := by decide
  have hsentCu := hsent (hcu ▸ cu_valid) (hcu ▸ by decide)
  rwa [hcu, hbytes] at hsentCu

/-- Settles O24: the build holds the low nibble's word-write after the high nibble's. -/
theorem lapHighNibbleIsSentFirst : Obligations.LapHighNibbleIsSentFirst := by
  intro v s hvalid hfixed hidle hok hv0 hv255
  refine exec_of_send_ok (i := .setlap v) hidle hok ?_
  rw [buildOf, setlapBuild_eq hvalid hfixed, if_neg (not_not.2 ⟨hv0, hv255⟩), toNat_toInt hv0]

/-- Settles O25: the build is the mask's frame. -/
theorem ignoreMaskIsSent : Obligations.IgnoreMaskIsSent := by
  intro v s hvalid hidle hok hv0 hv255
  refine exec_of_send_ok (i := .ignore v) hidle hok ?_
  rw [buildOf, ignoreBuild_eq (alphabetOk_of_valid hvalid), if_neg (not_not.2 ⟨hv0, hv255⟩), toNat_toInt hv0]

/-- Settles O26: each build is the configuration's own frame. -/
theorem resetVersionAndPollAreSent : Obligations.ResetVersionAndPollAreSent := by
  intro s hidle hok
  refine ⟨exec_of_send_ok (i := .reset) hidle hok rfl, exec_of_send_ok (i := .version) hidle hok rfl,
    exec_of_send_ok (i := .request) hidle hok rfl, fun hcu => ?_⟩
  rw [hcu]
  exact ⟨rfl, rfl, rfl⟩

/-- Settles O27: each build is the button frame of its identifier. -/
theorem buttonPressesAreSent : Obligations.ButtonPressesAreSent := by
  intro s hidle hok
  refine ⟨exec_of_send_ok (i := .pressPaceCar) hidle hok (fixedBuild_buttonFrame _ _),
    exec_of_send_ok (i := .pressStart) hidle hok (fixedBuild_buttonFrame _ _),
    exec_of_send_ok (i := .pressSpeed) hidle hok (fixedBuild_buttonFrame _ _),
    exec_of_send_ok (i := .pressBrake) hidle hok (fixedBuild_buttonFrame _ _),
    exec_of_send_ok (i := .pressFuel) hidle hok (fixedBuild_buttonFrame _ _),
    exec_of_send_ok (i := .pressCode) hidle hok (fixedBuild_buttonFrame _ _), fun hcu => ?_⟩
  rw [hcu]
  decide

/-! ## Operations that answer at once -/

/-- Settles O28: `pack` accepts the values, and the build is its frame. -/
theorem packIsAnsweredAtOnce : Obligations.PackIsAnsweredAtOnce := by
  intro spec vals s hidle hw hn hfit
  have hpack := pack_of_fit (p := s.params) hw hn hfit
  refine ⟨_, pack_length hpack, hpack, exec_of_done hidle ?_⟩
  rw [buildOf, packBuild, hpack]

/-- Settles O29: the build is what `unpack` answers, by whether a checksum differs. -/
theorem unpackIsAnsweredAtOnce : Obligations.UnpackIsAnsweredAtOnce := by
  intro spec buf s hidle hw hlen
  obtain ⟨vs, hok, hn, hagree⟩ | ⟨k, hk, herr, hdiffers⟩ := unpack_cases (p := s.params) hw hlen
  · refine ⟨fun _ => ⟨vs, hn, hok, exec_of_done hidle ?_⟩, ?_⟩
    · rw [buildOf, unpackBuild, hok]
    · rintro ⟨j, hj, hne⟩
      exact absurd (hagree j hj) hne
  · refine ⟨fun hall => absurd (hall k hk) hdiffers, fun _ => exec_of_fail (e := .checksum k) hidle ?_⟩
    rw [buildOf, unpackBuild, herr]

/-! ## Refusals and failed sends -/

/-- Code 2 is `FormatError`'s alone (R241). -/
theorem errorNumber_eq_two_iff {e : BlockError} : errorNumber e = 2 ↔ ∃ c, e = .format c := by
  cases e <;> simp [errorNumber]

/-- Settles O31: the answer is `ERR(2)` exactly when the build fails with a `FormatError`, which the operands decide. -/
theorem formatErrorCausesBeforeSending : Obligations.FormatErrorCausesBeforeSending := by
  intro i s hvalid hfixed hidle
  calc exec i s = .next (afterAnswer s (.err 2))
      ↔ ∃ e, buildOf s.params i = .fail e ∧ errorNumber e = 2 := exec_eq_err_iff hidle 2
    _ ↔ (buildOf s.params i).FailsFormat := by
      simp only [errorNumber_eq_two_iff, Build.FailsFormat]
      constructor
      · rintro ⟨e, hb, c, rfl⟩
        exact ⟨c, hb⟩
      · rintro ⟨c, hb⟩
        exact ⟨_, hb, c, rfl⟩
    _ ↔ failsFormat i := failsFormat_buildOf hvalid hfixed i

/-- What a send emits last is the frame or the transport's own error, `ERR(4)` or `ERR(5)` (R164). -/
theorem send_getLast?_ne_err {f : Frame} {rest : List Frame} {s : State} {c : Byte} (hc : c ∈ [(1 : Byte), 2]) :
    (send f rest s).out.getLast? ≠ some (.rsp (.err c)) := by
  obtain ⟨-, h⟩ | ⟨-, h⟩ | ⟨-, h⟩ := send_cases f rest s
  · simp [h]
  · rw [h, endErr_out, List.getLast?_concat]
    rintro ⟨⟩
    exact absurd hc (by decide)
  · rw [h, endErr_out, List.getLast?_concat]
    rintro ⟨⟩
    exact absurd hc (by decide)

/-- Settles O32: of what the acceptance of a request can do, only a refusal ends with such a response, its own. -/
theorem nothingIsSentOnARefusedRequest : Obligations.NothingIsSentOnARefusedRequest := by
  intro i s t c hidle hexec hlast hc
  cases hb : buildOf s.params i with
  | fail e =>
    rw [exec_of_fail hidle hb] at hexec
    cases hexec
    have hcode : errorNumber e = c := by simpa [afterAnswer] using hlast
    rw [hcode]
  | done r =>
    rw [exec_of_done hidle hb] at hexec
    cases hexec
    simp [afterAnswer] at hlast
  | send f rest =>
    rw [exec_of_send hidle hb] at hexec
    cases hexec
    exact absurd hlast (send_getLast?_ne_err hc)

/-- Settles O33: the operation builds its first frame, and the send of it fails. -/
theorem failedSendEndsTheOperation : Obligations.FailedSendEndsTheOperation := by
  intro i f s hvalid hfixed hidle hframe
  obtain ⟨rest, hb⟩ := buildOf_of_firstFrame hvalid hfixed hframe
  exact ⟨fun ho => exec_of_send_timeout hidle ho hb, fun ho => exec_of_send_ioerr hidle ho hb⟩

end Sys2Proof.Machine
end

section
/-! PROOFS. The step of 41_session.md (R160, R161): which event fires, what no event changes (R29), what the block does
when it waits (R181), and the events of `AWAIT` that stop or restart it. -/

namespace Sys2Proof.Machine

open Sys2Proof Sys2Proof.Safety

/-! ## What no event touches -/

/-- What the block's operations on its registers do not touch: the parameters, the events presented, and what was
emitted before. -/
structure KeepsPorts (s t : State) : Prop where
  params : t.params = s.params
  events : t.events = s.events
  out : ∃ new, t.out = s.out ++ new

theorem KeepsPorts.refl (s : State) : KeepsPorts s s := ⟨rfl, rfl, [], (List.append_nil _).symm⟩

theorem keepsPorts_endErr (e : BlockError) (s : State) : KeepsPorts s (endErr e s) := ⟨rfl, rfl, _, rfl⟩

theorem keepsPorts_endOk (r : Result) (s : State) : KeepsPorts s (endOk r s) := ⟨rfl, rfl, _, rfl⟩

theorem keepsPorts_refuse (e : BlockError) (s : State) : KeepsPorts s (refuse e s) := ⟨rfl, rfl, _, rfl⟩

theorem keepsPorts_discardFrame (f : Frame) (s : State) : KeepsPorts s (s.discardFrame f) := ⟨rfl, rfl, _, rfl⟩

theorem keepsPorts_send (f : Frame) (rest : List Frame) (s : State) : KeepsPorts s (send f rest s) := by
  obtain ⟨-, h⟩ | ⟨-, h⟩ | ⟨-, h⟩ := send_cases f rest s <;> rw [h]
  · exact ⟨rfl, rfl, _, rfl⟩
  · exact ⟨rfl, rfl, _, by rw [endErr_out, State.offer_out, List.append_assoc]⟩
  · exact ⟨rfl, rfl, _, by rw [endErr_out, State.offer_out, List.append_assoc]⟩

theorem keepsPorts_accept (op : Opcode) (b : Build) (s : State) : KeepsPorts s (accept op b s) := by
  obtain ⟨-, h⟩ | ⟨-, e, -, h⟩ | ⟨-, r, -, h⟩ | ⟨-, f, rest, -, h⟩ := accept_cases op b s <;> rw [h]
  · exact .refl s
  · exact keepsPorts_refuse e s
  · exact ⟨rfl, rfl, _, rfl⟩
  · obtain ⟨hparams, hevents, hout⟩ := keepsPorts_send f rest (s.clearDiscards.serve op)
    exact ⟨hparams, hevents, hout⟩

theorem keepsPorts_onRequest {r : Request} {s t : State} (h : onRequest r s = .next t) : KeepsPorts s t := by
  obtain rfl | ⟨i, -, rfl⟩ := onRequest_cases h
  · exact keepsPorts_refuse _ _
  · exact keepsPorts_accept _ _ _

theorem keepsPorts_onRx {x : RxEvent} {s t : State} (h : onRx x s = .next t) : KeepsPorts s t := by
  obtain ⟨e, rfl⟩ | ⟨r, rfl⟩ | ⟨f, -, rfl⟩ | ⟨f, -, rfl⟩ := onRx_cases h
  · exact keepsPorts_endErr _ _
  · exact keepsPorts_endOk _ _
  · exact keepsPorts_send _ _ _
  · exact keepsPorts_discardFrame _ _

theorem keepsPorts_onClose (s : State) : KeepsPorts s (onClose s) := by
  obtain ⟨-, h⟩ | ⟨-, h⟩ := onClose_cases s <;> rw [h]
  · exact ⟨rfl, rfl, [], (List.append_nil _).symm⟩
  · exact ⟨rfl, rfl, _, rfl⟩

theorem keepsPorts_fire {e : Event} {s t : State} (h : fire e s = .next t) : KeepsPorts s t := by
  cases e with
  | req r => exact keepsPorts_onRequest h
  | rx x => exact keepsPorts_onRx h
  | close => cases h; exact keepsPorts_onClose s
  | reset => cases h; exact ⟨rfl, rfl, [], (List.append_nil _).symm⟩

/-- A step that answers a next state waits, or fires one event. -/
theorem step_eq_wait_or_fire {s t : State} (h : step s = .next t) :
    (takeEvent s.phase s.events = none ∧ t = s.arrive (Config.arrival s.arrivals)) ∨
    (∃ e rest, takeEvent s.phase s.events = some (e, rest) ∧ fire e { s with events := rest } = .next t) := by
  cases htake : takeEvent s.phase s.events with
  | none =>
    rw [step_of_none htake] at h
    cases h
    exact .inl ⟨rfl, rfl⟩
  | some x =>
    obtain ⟨e, rest⟩ := x
    rw [step_of_take htake] at h
    exact .inr ⟨e, rest, rfl, h⟩

/-- Settles O10: no event writes the parameters, and a wait does not. -/
theorem parametersStayFixed : Obligations.ParametersStayFixed := by
  intro s t h
  obtain ⟨-, rfl⟩ | ⟨e, rest, -, hfire⟩ := step_eq_wait_or_fire h
  · rfl
  · exact (keepsPorts_fire hfire).params

/-- Settles O58: every event appends to `out`, and a wait leaves it. -/
theorem emittedEventsStay : Obligations.EmittedEventsStay := by
  intro s t h
  obtain ⟨-, rfl⟩ | ⟨e, rest, -, hfire⟩ := step_eq_wait_or_fire h
  · exact ⟨[], (List.append_nil _).symm⟩
  · exact (keepsPorts_fire hfire).out

/-! ## The event that fires -/

/-- Settles O35: the request is taken, and it decodes. -/
theorem stepRunsTheDecodedOperation : Obligations.StepRunsTheDecodedOperation := by
  intro s r rest i hidle htake hdecode
  rw [← hidle] at htake
  rw [step_of_take htake, fire_req_of_decode hdecode]

/-- Settles O36: of the list, the event after those the phase does not accept is taken. -/
theorem firstAcceptedEventFires : Obligations.FirstAcceptedEventFires := by
  intro s before after e hevents hbefore he
  exact step_of_take (by rw [hevents, takeEvent_append_of_ready hbefore he])

/-- Settles O46: block reset is the event taken. -/
theorem blockResetClearsTheRegisters : Obligations.BlockResetClearsTheRegisters := by
  intro s rest htake
  rw [step_of_take htake]
  rfl

theorem onFrame_of_noKey {b : Byte} {f : Frame} {s : State} (h : s.key = none) :
    onFrame (b :: f) s = .fault .keyReadWhileNone := by
  simp [onFrame, h]

/-- I11: a queue of two or more frames, or of one empty frame, is malformed. -/
theorem onMatch_of_malformed {f : Frame} {s : State} (h : 2 ≤ s.queue.length ∨ s.queue = [[]]) :
    onMatch f s = .fault .queueMalformed := by
  unfold onMatch
  split
  · next hq => simp [hq] at h
  · next hq => simp [hq] at h
  · rfl

/-- Settles O44: the frame's first byte is compared with the key, and on a match the queue is read. -/
theorem unlawfulRegistersFault : Obligations.UnlawfulRegistersFault := by
  intro s b f rest hawait htake
  rw [step_of_take_rx hawait htake, onRx_frame]
  refine ⟨fun hkey => ?_, fun hkey hqueue => ?_⟩
  · exact onFrame_of_noKey (s := { s with events := rest }) hkey
  · rw [onFrame_of_match (s := { s with events := rest }) hkey]
    exact onMatch_of_malformed (s := { s with events := rest }) hqueue

/-! ## Requests in `AWAIT` -/

/-- Taking an event that is no request leaves the requests presented, in their order. -/
theorem filter_isRequest_of_take {ph : Phase} {es rest : List Event} {e : Event} (h : takeEvent ph es = some (e, rest))
    (he : isRequest e = false) : rest.filter isRequest = es.filter isRequest := by
  obtain ⟨before, after, rfl, rfl, -⟩ := takeEvent_split h
  simp [he]

/-- Settles O38: in `AWAIT` the event that fires is no request, and no event adds to those presented but in a wait. -/
theorem requestsWaitInAwait : Obligations.RequestsWaitInAwait := by
  intro s hawait
  refine ⟨fun i => by rw [exec_eq_accept, accept_of_await hawait], fun t h => ?_⟩
  obtain ⟨htake, rfl⟩ | ⟨e, rest, htake, hfire⟩ := step_eq_wait_or_fire h
  · rw [newEvents_of_none htake, State.arrive_events]
  · have hready := takeEvent_ready htake
    have hnoRequest : isRequest e = false := by
      cases e with
      | req r => rw [hawait] at hready; cases hready
      | rx x | close | reset => rfl
    rw [newEvents_of_take htake, List.append_nil, (keepsPorts_fire hfire).events]
    exact filter_isRequest_of_take htake hnoRequest

/-! ## Waiting (R181) -/

/-- The state after the frames `noise` that arrived in `k` waits were discarded, one after each wait. -/
def afterNoise (noise : Nat → Frame) (k : Nat) (s : State) : State :=
  { s with
    discards := s.discards + k
    arrivals := s.arrivals + k
    out := s.out ++ (List.range k).map fun i => PortEvent.diag (noise (s.arrivals + i)) }

theorem afterNoise_zero (noise : Nat → Frame) (s : State) : afterNoise noise 0 s = s := by
  simp [afterNoise]

/-- One discarded frame and then `k` are `k + 1`. -/
theorem afterNoise_afterNoise_one (noise : Nat → Frame) (k : Nat) (s : State) :
    afterNoise noise k (afterNoise noise 1 s) = afterNoise noise (k + 1) s := by
  simp [afterNoise, List.range_succ_eq_map, Function.comp_def, Nat.add_assoc, Nat.add_comm 1]

section
variable {s : State} (hnone : ∀ x ∈ s.events, eventReady s.phase x = false)
include hnone

/-- In an environment that presents nothing the block waits, any number of steps. -/
theorem runIn_of_silence (k : Nat) :
    Host.Core.run (coreIn fun _ => none) k s = .next { s with arrivals := s.arrivals + k } := by
  induction k generalizing s with
  | zero => rfl
  | succ k ih =>
    have hwait : stepBlock (fun _ => none) s = .next { s with arrivals := s.arrivals + 1 } := by
      rw [stepBlock_of_none (takeEvent_eq_none.2 hnone)]
      simp [State.arrive]
    rw [runIn_succ_of_next hwait, ih (s := { s with arrivals := s.arrivals + 1 }) hnone]
    simp only [Nat.add_assoc, Nat.add_comm 1]

/-- A frame that does not match, presented in a wait, is discarded in the step after it. -/
theorem runIn_of_noise_one {noise : Nat → Frame} {key : Byte} (hnoise : ∀ n, ∃ b g, noise n = b :: g ∧ b ≠ key)
    (hp : s.phase = .await) (hk : s.key = some key) (m : Nat) :
    Host.Core.run (coreIn fun n => some (.rx (.frame (noise n)))) (m + 1 + 1) s =
      Host.Core.run (coreIn fun n => some (.rx (.frame (noise n)))) m (afterNoise noise 1 s) := by
  obtain ⟨b, g, hframe, hb⟩ := hnoise s.arrivals
  have hready : eventReady s.phase (.rx (.frame (noise s.arrivals))) = true := by rw [hp]; rfl
  have htake := takeEvent_append_of_ready (after := []) hnone hready
  have hdiscard : stepBlock (fun n => some (.rx (.frame (noise n))))
      (s.arrive (some (.rx (.frame (noise s.arrivals))))) = .next (afterNoise noise 1 s) := by
    rw [stepBlock_of_take (s := s.arrive (some (.rx (.frame (noise s.arrivals))))) htake, hframe]
    refine (onFrame_of_noMatch (s := { s.arrive _ with events := s.events ++ [] }) hk hb).trans ?_
    simp [afterNoise, State.discardFrame, State.arrive, hframe]
  rw [runIn_succ_of_next (stepBlock_of_none (takeEvent_eq_none.2 hnone)), runIn_succ_of_next hdiscard]

/-- In an environment that presents non-matching frames the block discards, any number of them. -/
theorem runIn_of_noise {noise : Nat → Frame} {key : Byte} (hnoise : ∀ n, ∃ b g, noise n = b :: g ∧ b ≠ key)
    (hp : s.phase = .await) (hk : s.key = some key) (k : Nat) :
    Host.Core.run (coreIn fun n => some (.rx (.frame (noise n)))) (2 * k) s = .next (afterNoise noise k s) := by
  induction k generalizing s with
  | zero => rw [afterNoise_zero]; rfl
  | succ k ih =>
    rw [Nat.mul_succ, runIn_of_noise_one hnone hnoise hp hk,
      ih (s := afterNoise noise 1 s) hnone hp hk, afterNoise_afterNoise_one]

end

/-- Settles O37: a step with no event to take is a wait, and both hangs are runs of waits. -/
theorem blockWaitsWithoutAnEvent : Obligations.BlockWaitsWithoutAnEvent :=
  ⟨fun _ hnone => step_of_none (takeEvent_eq_none.2 hnone),
    fun _ k hnone => runIn_of_silence hnone k,
    fun _ _ _ k hp hk hnone hnoise => runIn_of_noise hnone hnoise hp hk k⟩

end Sys2Proof.Machine
end

section
/-! PROOFS. One response per accepted request (R165): what each event does to the requests taken, in flight or
answered. -/

namespace Sys2Proof.Machine

open Sys2Proof Sys2Proof.Safety

/-! ## Requests taken -/

/-- The requests taken from `REQ`: the operation in flight and the responses emitted.  `requestBalance` is this and the
requests still presented. -/
def requestsTaken (s : State) : Nat := (if s.phase = .await then 1 else 0) + s.out.countP isResponse

theorem requestBalance_eq (s : State) : requestBalance s = s.events.countP isRequest + requestsTaken s :=
  Nat.add_assoc _ _ _

theorem requestsTaken_of_idle {s : State} (h : s.phase = .idle) : requestsTaken s = s.out.countP isResponse := by
  simp [requestsTaken, h]

theorem requestsTaken_of_await {s : State} (h : s.phase = .await) :
    requestsTaken s = s.out.countP isResponse + 1 := by
  simp [requestsTaken, h, Nat.add_comm 1]

theorem requestsTaken_endErr (e : BlockError) (s : State) :
    requestsTaken (endErr e s) = s.out.countP isResponse + 1 := by
  simp [requestsTaken_of_idle (endErr_phase e s), isResponse]

theorem requestsTaken_endOk (r : Result) (s : State) : requestsTaken (endOk r s) = s.out.countP isResponse + 1 := by
  simp [requestsTaken_of_idle (endOk_phase r s), isResponse]

/-- After a send one more request is in flight or answered than were answered before (R164). -/
theorem requestsTaken_send (f : Frame) (rest : List Frame) (s : State) :
    requestsTaken (send f rest s) = s.out.countP isResponse + 1 := by
  obtain ⟨-, h⟩ | ⟨-, h⟩ | ⟨-, h⟩ := send_cases f rest s <;> rw [h]
  · simp [requestsTaken_of_await (State.await_phase f rest (s.offer f)), isResponse]
  · simp [requestsTaken_endErr, isResponse]
  · simp [requestsTaken_endErr, isResponse]

/-! ## By event -/

section
variable {s t : State}

theorem requestsTaken_refuse (hp : s.phase = .idle) (e : BlockError) :
    requestsTaken (refuse e s) = requestsTaken s + 1 := by
  simp [requestsTaken_of_idle, hp, isResponse]

/-- Accepting a request in `IDLE` puts it in flight or answers it (R162, R163). -/
theorem requestsTaken_accept (hp : s.phase = .idle) (op : Opcode) (b : Build) :
    requestsTaken (accept op b s) = requestsTaken s + 1 := by
  cases b with
  | fail e => rw [accept_fail hp, requestsTaken_refuse hp]
  | done r => simp [accept_done hp, requestsTaken_of_idle, hp, isResponse]
  | send f rest => rw [accept_send hp, requestsTaken_send, requestsTaken_of_idle hp]; rfl

theorem requestsTaken_onRequest {r : Request} (hp : s.phase = .idle) (h : onRequest r s = .next t) :
    requestsTaken t = requestsTaken s + 1 := by
  obtain rfl | ⟨i, -, rfl⟩ := onRequest_cases h
  · exact requestsTaken_refuse hp _
  · exact requestsTaken_accept hp _ _

/-- A receive event answers the operation in flight or leaves it in flight (R166 to R170). -/
theorem requestsTaken_onRx {x : RxEvent} (hp : s.phase = .await) (h : onRx x s = .next t) :
    requestsTaken t = requestsTaken s := by
  rw [requestsTaken_of_await hp]
  obtain ⟨e, rfl⟩ | ⟨r, rfl⟩ | ⟨f, -, rfl⟩ | ⟨f, -, rfl⟩ := onRx_cases h
  · exact requestsTaken_endErr e s
  · exact requestsTaken_endOk r s
  · exact requestsTaken_send f [] s
  · simp [requestsTaken_of_await, hp, isResponse]

/-- `CLOSE` answers the operation in flight, if there is one (R171). -/
theorem requestsTaken_onClose (s : State) : requestsTaken (onClose s) = requestsTaken s := by
  obtain ⟨hp, h⟩ | ⟨hp, h⟩ := onClose_cases s <;> rw [h]
  · rfl
  · rw [requestsTaken_endErr, requestsTaken_of_await hp]
    rfl

/-- An event other than block reset takes one request if it is one, and none else. -/
theorem requestsTaken_fire {e : Event} (hready : eventReady s.phase e = true) (he : e ≠ .reset)
    (h : fire e s = .next t) : requestsTaken t = requestsTaken s + if isRequest e then 1 else 0 := by
  cases e with
  | req r => exact requestsTaken_onRequest (idle_of_req_ready hready) h
  | rx x => exact requestsTaken_onRx (await_of_rx_ready hready) h
  | close => cases h; exact requestsTaken_onClose s
  | reset => exact absurd rfl he

end

/-- Taking an event takes it out of those presented. -/
theorem countP_isRequest_of_take {ph : Phase} {es rest : List Event} {e : Event}
    (h : takeEvent ph es = some (e, rest)) :
    es.countP isRequest = rest.countP isRequest + if isRequest e then 1 else 0 := by
  obtain ⟨before, after, rfl, rfl, -⟩ := takeEvent_split h
  simp [List.countP_cons, Nat.add_assoc]

/-- Settles O56: a wait adds what the environment presents, and the event that fires moves a request from those
presented to those taken if it is one. -/
theorem oneResponsePerAcceptedRequest : Obligations.OneResponsePerAcceptedRequest := by
  intro s t hnoReset h
  rw [requestBalance_eq, requestBalance_eq]
  obtain ⟨htake, rfl⟩ | ⟨e, rest, htake, hfire⟩ := step_eq_wait_or_fire h
  · have htaken : requestsTaken (s.arrive (Config.arrival s.arrivals)) = requestsTaken s := rfl
    rw [newEvents_of_none htake, State.arrive_events, List.countP_append, htaken]
    omega
  · have he : e ≠ .reset := fun he => hnoReset rest (he ▸ htake)
    have htaken : requestsTaken t = requestsTaken s + if isRequest e then 1 else 0 :=
      requestsTaken_fire (s := { s with events := rest }) (takeEvent_ready htake) he hfire
    have hevents : t.events = rest := (keepsPorts_fire hfire).events
    rw [newEvents_of_take htake, hevents, countP_isRequest_of_take htake, htaken,
      List.countP_nil]
    omega

end Sys2Proof.Machine
end

section
/-! PROOFS. The register invariant of 10_state.md (R23 to R26): it holds at reset, every event keeps it, and from it no
step stops; the match with a frame still to send (R169). -/

namespace Sys2Proof.Machine

open Sys2Proof Sys2Proof.Safety

/-! ## The frames an operation builds -/

/-- What the registers hold after a send of `f` with `rest` left to send, for operation `op` (R24, R25, R26): `f` begins
with the operation's key, and only `SETLAP` leaves a frame, one word-write. -/
structure LawfulFrames (p : Params) (op : Opcode) (f : Frame) (rest : List Frame) : Prop where
  nonempty : f.head?.isSome = true
  key : f.head? = commandKey p op
  atMostOne : rest.length ≤ 1
  wordWrites : ∀ g ∈ rest, g.head? = some p.tagWord
  onlySetlap : rest ≠ [] → op = .setlap

/-- One frame alone is lawful when it begins with the operation's key. -/
theorem lawfulFrames_alone {p : Params} {op : Opcode} {f : Frame} {b : Byte} (hf : f.head? = some b)
    (hkey : commandKey p op = some b) : LawfulFrames p op f [] where
  nonempty := by rw [hf]; rfl
  key := hf.trans hkey.symm
  atMostOne := Nat.zero_le 1
  wordWrites := fun _ hg => by cases hg
  onlySetlap := fun h => absurd rfl h

theorem sendBuild_eq_send {x : Except BlockError (Frame × List Frame)} {f : Frame} {rest : List Frame}
    (h : sendBuild x = .send f rest) : x = .ok (f, rest) := by
  cases x with
  | error e => cases h
  | ok y => cases h; rfl

/-- A sequence that succeeds does so in each of its two parts. -/
theorem exists_of_bind_eq_ok {α β : Type} {x : Except BlockError α} {f : α → Except BlockError β} {b : β}
    (h : x >>= f = .ok b) : ∃ a, x = .ok a ∧ f a = .ok b := by
  cases x with
  | error e => cases h
  | ok a => exact ⟨a, rfl, h⟩

theorem wordWriteBuild_eq_send {p : Params} {word : Nat} {chkValue : Int → Except BlockError Unit} {a v r : Int}
    {f : Frame} {rest : List Frame} (h : wordWriteBuild p word chkValue a v r = .send f rest) :
    f.head? = some p.tagWord ∧ rest = [] := by
  obtain ⟨_, -, hbuild⟩ := exists_of_bind_eq_ok (sendBuild_eq_send h)
  obtain ⟨_, -, hbuild⟩ := exists_of_bind_eq_ok hbuild
  obtain ⟨g, hframe, hbuild⟩ := exists_of_bind_eq_ok hbuild
  cases hbuild
  exact ⟨wordWrite_head hframe, rfl⟩

theorem clrposBuild_eq_send {p : Params} {f : Frame} {rest : List Frame} (h : clrposBuild p = .send f rest) :
    f.head? = some p.tagWord ∧ rest = [] := by
  obtain ⟨g, hframe, hbuild⟩ := exists_of_bind_eq_ok (sendBuild_eq_send h)
  cases hbuild
  exact ⟨wordWrite_head hframe, rfl⟩

theorem ignoreBuild_eq_send {p : Params} {v : Int} {f : Frame} {rest : List Frame}
    (h : ignoreBuild p v = .send f rest) : f.head? = some p.tagIgnore ∧ rest = [] := by
  obtain ⟨g, hframe, hbuild⟩ := exists_of_bind_eq_ok (sendBuild_eq_send h)
  cases hbuild
  exact ⟨ignoreFrame_head hframe, rfl⟩

/-- `SETLAP` sends a word-write and leaves another (R211). -/
theorem setlapBuild_eq_send {p : Params} {v : Int} {f : Frame} {rest : List Frame}
    (h : setlapBuild p v = .send f rest) :
    f.head? = some p.tagWord ∧ ∃ g, rest = [g] ∧ g.head? = some p.tagWord := by
  obtain ⟨_, -, hbuild⟩ := exists_of_bind_eq_ok (sendBuild_eq_send h)
  obtain ⟨high, hhigh, hbuild⟩ := exists_of_bind_eq_ok hbuild
  obtain ⟨low, hlow, hbuild⟩ := exists_of_bind_eq_ok hbuild
  cases hbuild
  exact ⟨wordWrite_head hhigh, low, rfl, wordWrite_head hlow⟩

theorem packBuild_ne_send (p : Params) (spec : FieldSpec) (vals : List Value) (f : Frame) (rest : List Frame) :
    packBuild p spec vals ≠ .send f rest := by
  unfold packBuild
  cases pack p spec vals <;> nofun

theorem unpackBuild_ne_send (p : Params) (spec : FieldSpec) (buf : Frame) (f : Frame) (rest : List Frame) :
    unpackBuild p spec buf ≠ .send f rest := by
  unfold unpackBuild
  cases unpack p spec buf <;> nofun

theorem exists_head_of_firstByteDiffers {b : Byte} {f : Frame} (h : firstByteDiffers b f = true) :
    ∃ x, f.head? = some x := by
  cases f with
  | nil => cases h
  | cons x f => exact ⟨x, rfl⟩

/-- R8(b): the fixed frames of a valid configuration are not empty. -/
theorem fixedFrames_head_of_valid {p : Params} (h : p.valid = true) :
    (∃ b, p.resetFrame.head? = some b) ∧ ∃ b, p.versionFrame.head? = some b := by
  obtain ⟨-, hreset, hversion⟩ : (p.tagWord ≠ p.m0 ∧ p.tagIgnore ≠ p.m0 ∧ p.tagButton ≠ p.m0) ∧
      firstByteDiffers p.m0 p.resetFrame = true ∧ firstByteDiffers p.m0 p.versionFrame = true := by
    simpa [Params.tagsOk, and_assoc] using tagsOk_of_valid h
  exact ⟨exists_head_of_firstByteDiffers hreset, exists_head_of_firstByteDiffers hversion⟩

/-- In a valid configuration every operation that sends builds lawful frames (R206 to R221). -/
theorem buildOf_lawfulFrames {p : Params} (hvalid : p.valid = true) {i : Instr} {f : Frame} {rest : List Frame}
    (h : buildOf p i = .send f rest) : LawfulFrames p (opcodeOf i) f rest := by
  obtain ⟨⟨b, hreset⟩, c, hversion⟩ := fixedFrames_head_of_valid hvalid
  cases i with
  | setspeed a v r | setbrake a v r | setfuel a v r | setpos a v r =>
    obtain ⟨hf, rfl⟩ := wordWriteBuild_eq_send h
    exact lawfulFrames_alone hf rfl
  | clrpos =>
    obtain ⟨hf, rfl⟩ := clrposBuild_eq_send h
    exact lawfulFrames_alone hf rfl
  | setlap v =>
    obtain ⟨hf, g, rfl, hg⟩ := setlapBuild_eq_send h
    exact ⟨by rw [hf]; rfl, hf, le_rfl, List.forall_mem_singleton.2 hg, fun _ => rfl⟩
  | ignore v =>
    obtain ⟨hf, rfl⟩ := ignoreBuild_eq_send h
    exact lawfulFrames_alone hf rfl
  | reset => cases h; exact lawfulFrames_alone hreset hreset
  | version => cases h; exact lawfulFrames_alone hversion hversion
  | request => cases h; exact lawfulFrames_alone (pollFrame_head_of_valid hvalid) (pollFrame_head_of_valid hvalid)
  | pressPaceCar | pressStart | pressSpeed | pressBrake | pressFuel | pressCode =>
    cases h; exact lawfulFrames_alone rfl rfl
  | pack spec vals => exact absurd h (packBuild_ne_send p spec vals f rest)
  | unpack spec buf => exact absurd h (unpackBuild_ne_send p spec buf f rest)

/-! ## The invariant, by what is done to the registers -/

theorem inv_of_idle {s : State} (hvalid : s.params.valid = true) (hp : s.phase = .idle) (h : idleRegisters s) : Inv s :=
  ⟨hvalid, fun _ => h, fun hawait => absurd (hp.symm.trans hawait) (by decide)⟩

theorem inv_of_await {s : State} (hvalid : s.params.valid = true) (hp : s.phase = .await) (h : awaitRegisters s) :
    Inv s :=
  ⟨hvalid, fun hidle => absurd (hp.symm.trans hidle) (by decide), fun _ => h⟩

theorem inv_endErr {s : State} (hvalid : s.params.valid = true) (e : BlockError) : Inv (endErr e s) :=
  inv_of_idle hvalid rfl ⟨rfl, rfl, rfl⟩

theorem inv_endOk {s : State} (hvalid : s.params.valid = true) (r : Result) : Inv (endOk r s) :=
  inv_of_idle hvalid rfl ⟨rfl, rfl, rfl⟩

/-- A released transport answers no send `TX_OK` (R33). -/
theorem closed_of_txOutcome_ok {s : State} (h : txOutcome s = .ok) : s.closed = false := by
  by_contra hclosed
  rw [txOutcome_of_closed (by simpa using hclosed)] at h
  cases h

/-- A send of lawful frames leaves lawful registers, whatever its outcome (R164). -/
theorem inv_send {s : State} (hvalid : s.params.valid = true) {op : Opcode} (hctx : s.ctx = some op) {f : Frame}
    {rest : List Frame} (hframes : LawfulFrames s.params op f rest) : Inv (send f rest s) := by
  obtain ⟨ho, h⟩ | ⟨-, h⟩ | ⟨-, h⟩ := send_cases f rest s <;> rw [h]
  · have hopen : s.closed = false := closed_of_txOutcome_ok ho
    refine inv_of_await hvalid rfl ⟨hopen, hframes.nonempty, ?_, hframes.atMostOne,
      hframes.wordWrites, fun hrest => hctx.trans (congrArg some (hframes.onlySetlap hrest))⟩
    simp [hctx, hframes.key]
  · exact inv_endErr (s := s.offer f) hvalid .timeout
  · exact inv_endErr (s := s.offer f) hvalid .io

theorem inv_accept {s : State} (h : Inv s) (i : Instr) : Inv (accept (opcodeOf i) (buildOf s.params i) s) := by
  have hvalid : s.params.valid = true := h.1
  obtain ⟨-, hacc⟩ | ⟨-, e, -, hacc⟩ | ⟨-, r, -, hacc⟩ | ⟨-, f, rest, hb, hacc⟩ :=
    accept_cases (opcodeOf i) (buildOf s.params i) s <;> rw [hacc]
  · exact h
  · exact h
  · exact h
  · exact inv_send (s := s.clearDiscards.serve (opcodeOf i)) hvalid rfl (buildOf_lawfulFrames hvalid hb)

theorem inv_onRequest {r : Request} {s t : State} (h : Inv s) (hreq : onRequest r s = .next t) : Inv t := by
  obtain rfl | ⟨i, -, rfl⟩ := onRequest_cases hreq
  · exact h
  · exact inv_accept h i

/-- A receive event releases the registers, leaves them, or sends the frame in `queue`, a word-write of `SETLAP`. -/
theorem inv_onRx {x : RxEvent} {s t : State} (hp : s.phase = .await) (h : Inv s) (hrx : onRx x s = .next t) :
    Inv t := by
  obtain ⟨hvalid, -, hawait⟩ := h
  obtain ⟨e, rfl⟩ | ⟨r, rfl⟩ | ⟨f, hqueue, rfl⟩ | ⟨f, -, rfl⟩ := onRx_cases hrx
  · exact inv_endErr hvalid e
  · exact inv_endOk hvalid r
  · obtain ⟨-, -, -, -, hwords, hlap⟩ := hawait hp
    rw [hqueue] at hwords hlap
    have hf : f.head? = some s.params.tagWord := hwords f List.mem_cons_self
    exact inv_send hvalid (hlap (List.cons_ne_nil _ _)) (lawfulFrames_alone hf rfl)
  · exact inv_of_await hvalid hp (hawait hp)

theorem inv_onClose {s : State} (h : Inv s) : Inv (onClose s) := by
  obtain ⟨hvalid, hidle, -⟩ := h
  obtain ⟨hp, hclose⟩ | ⟨hp, hclose⟩ := onClose_cases s <;> rw [hclose]
  · exact inv_of_idle hvalid hp (hidle hp)
  · exact inv_endErr (s := s.shut) hvalid .io

theorem inv_fire {e : Event} {s t : State} (hready : eventReady s.phase e = true) (h : Inv s)
    (hfire : fire e s = .next t) : Inv t := by
  cases e with
  | req r => exact inv_onRequest h hfire
  | rx x => exact inv_onRx (await_of_rx_ready hready) h hfire
  | close => cases hfire; exact inv_onClose h
  | reset => cases hfire; exact inv_of_idle h.1 rfl ⟨rfl, rfl, rfl⟩

/-! ## The statements -/

/-- Settles O53: the reset state is in `IDLE` with the default parameters and nothing held. -/
theorem registersAreLawfulAtReset : Obligations.RegistersAreLawfulAtReset :=
  inv_of_idle cu_valid rfl ⟨rfl, rfl, rfl⟩

/-- Settles O54: a wait writes no register, and the event that fires keeps the invariant. -/
theorem registersStayLawful : Obligations.RegistersStayLawful := by
  intro s t h hstep
  obtain ⟨-, rfl⟩ | ⟨e, rest, htake, hfire⟩ := step_eq_wait_or_fire hstep
  · exact h
  · exact inv_fire (s := { s with events := rest }) (takeEvent_ready htake) h hfire

/-- From lawful registers a frame is compared with a key, and a match finds a queue the rules allow (R24, R25). -/
theorem exists_onFrame_eq_next {s : State} (h : awaitRegisters s) (f : Frame) : ∃ t, onFrame f s = .next t := by
  obtain ⟨-, hsome, -, hlen, hwords, -⟩ := h
  obtain ⟨k, hkey⟩ := Option.isSome_iff_exists.1 hsome
  cases f with
  | nil => exact ⟨_, onFrame_nil s⟩
  | cons b f =>
    by_cases hb : b = k
    · subst hb
      rw [onFrame_of_match hkey]
      match hqueue : s.queue with
      | [] => exact ⟨_, onMatch_of_empty hqueue⟩
      | [g] =>
        rw [hqueue] at hwords
        obtain ⟨g', rfl⟩ := List.head?_eq_some_iff.1 (hwords g List.mem_cons_self)
        exact ⟨_, onMatch_of_queued hqueue⟩
      | _ :: _ :: _ => simp [hqueue] at hlen
    · exact ⟨_, onFrame_of_noMatch hkey hb⟩

/-- Settles O55: only a receive event could stop the machine, and none does from lawful registers. -/
theorem lawfulRegistersNeverStop : Obligations.LawfulRegistersNeverStop := by
  rintro s ⟨-, -, hawait⟩
  unfold Steps
  cases htake : takeEvent s.phase s.events with
  | none => exact ⟨_, step_of_none htake⟩
  | some x =>
    obtain ⟨e, rest⟩ := x
    rw [step_of_take htake]
    cases e with
    | req r =>
      cases hdecode : decode r with
      | ok i => exact ⟨_, (fire_req_of_decode hdecode).trans (exec_eq_accept i _)⟩
      | error e => exact ⟨refuse .illegalOp { s with events := rest }, by simp [fire, onRequest, hdecode]⟩
    | rx x =>
      cases x with
      | frame f =>
        have hp : s.phase = .await := await_of_rx_ready (takeEvent_ready htake)
        exact exists_onFrame_eq_next (s := { s with events := rest }) (hawait hp) f
      | ioerr => exact ⟨_, onRx_ioerr _⟩
    | close | reset => exact ⟨_, rfl⟩

/-- Settles O42: the frame matches the key, the queue holds one frame, and the send follows its outcome. -/
theorem matchSendsTheQueuedFrame : Obligations.MatchSendsTheQueuedFrame := by
  intro s k b f g rest hp hkey hqueue htake
  have hstep : step s = .next (send (b :: g) [] { s with events := rest }) := by
    rw [step_of_take_rx hp htake, onRx_frame, onFrame_of_match (s := { s with events := rest }) hkey,
      onMatch_of_queued (s := { s with events := rest }) hqueue]
  refine ⟨hstep, fun hok => ?_, fun hinv => ?_⟩
  · have hok' : txOutcome { s with events := rest } = .ok := hok
    rw [hstep, send_of_ok hok', State.offer, hok', State.await, lineBytes_ok, hp]
    rfl
  · obtain ⟨-, -, hawait⟩ := hinv
    obtain ⟨-, -, -, -, -, hlap⟩ := hawait hp
    exact hlap (by simp [hqueue])

end Sys2Proof.Machine
end

section
/-! PROOFS. `CLOSE` (R171): the release of the transport, and what an operation answers after it. -/

namespace Sys2Proof.Machine

open Sys2Proof Sys2Proof.Safety

@[simp] theorem onClose_phase (s : State) : (onClose s).phase = .idle := by
  obtain ⟨hp, h⟩ | ⟨-, h⟩ := onClose_cases s <;> rw [h]
  · exact hp
  · rfl

@[simp] theorem onClose_params (s : State) : (onClose s).params = s.params := (keepsPorts_onClose s).params

/-- Closing again changes nothing: the transport is released and the registers are (R171). -/
theorem onClose_onClose (s : State) : onClose (onClose s) = onClose s := by
  rw [onClose_of_idle (onClose_phase s)]
  obtain ⟨-, h⟩ | ⟨-, h⟩ := onClose_cases s <;> rw [h] <;> rfl

theorem txOutcome_onClose (s : State) : txOutcome (onClose s) = .ioerr := txOutcome_of_closed (onClose_closed s)

/-- An operation that answers at once needs no transport: it answers the same after `CLOSE` (R162). -/
theorem exec_onClose_of_answer {i : Instr} {s : State} (hp : s.phase = .idle) {r : Response}
    (h : exec i s = .next (afterAnswer s r)) : exec i (onClose s) = .next (afterAnswer (onClose s) r) := by
  have hparams : buildOf (onClose s).params i = buildOf s.params i := by rw [onClose_params]
  cases hb : buildOf s.params i with
  | fail e =>
    rw [exec_of_fail hp hb, Host.Outcome.next.injEq, afterAnswer_inj] at h
    rw [exec_of_fail (onClose_phase s) (hparams.trans hb), h]
  | done result =>
    rw [exec_of_done hp hb, Host.Outcome.next.injEq, afterAnswer_inj] at h
    rw [exec_of_done (onClose_phase s) (hparams.trans hb), h]
  | send f rest =>
    rw [exec_of_send hp hb, Host.Outcome.next.injEq] at h
    exact absurd h (send_ne_afterAnswer f rest _ s r)

/-- Settles O45: the two phases' branches of `onClose`, and the statements about operations at the state it leaves,
which is in `IDLE` with the same parameters. -/
theorem closeReleasesTheTransport : Obligations.CloseReleasesTheTransport := by
  refine ⟨fun s rest htake => ?_, onClose_onClose, txOutcome_onClose, fun s spec vals buf hp => ?_,
    fun i s _ hfails => ?_, fun i s hvalid hfixed _ hfails => ?_, fun i f s hvalid hfixed _ hframe => ?_⟩
  · have hstep : step s = .next (onClose { s with events := rest }) := step_of_take htake
    refine ⟨fun hp => ?_, fun hp => ?_⟩
    · rw [hstep, onClose_of_idle (s := { s with events := rest }) hp]
      rfl
    · rw [hstep, onClose_of_await (s := { s with events := rest }) hp, endErr_eq_afterEnd]
      rfl
  · exact ⟨fun r => exec_onClose_of_answer hp, fun r => exec_onClose_of_answer hp⟩
  · exact (validationErrorCauses i (onClose s) (onClose_phase s)).2 hfails
  · rw [← onClose_params s] at hvalid hfixed
    exact (formatErrorCausesBeforeSending i (onClose s) hvalid hfixed (onClose_phase s)).2 hfails
  · rw [← onClose_params s] at hvalid hfixed hframe
    obtain ⟨-, hioerr⟩ := failedSendEndsTheOperation i f (onClose s) hvalid hfixed (onClose_phase s) hframe
    exact hioerr (txOutcome_onClose s)

end Sys2Proof.Machine
end
